-- ==== Sys2Proof/Word.lean ====
section
/-! DEFINITION. The two word types of the block: bytes and single bits (spec/00_scope.md R8, R9). -/

namespace Sys2Proof

/-- A byte, bit 0 least significant (R8): every peripheral register, codec operand and decimal field (R5, `DATA_W`, `FIELD_W`). -/
abbrev Byte := BitVec 8

/-- A one-bit value (R8): the mode, AM/PM, rate and selector flags, and `ILL` and `BUSY`. -/
abbrev Bit := BitVec 1

end Sys2Proof
end

