-- ==== Sys2Proof/Config.lean ====
section
/-! DEFINITION. The parameters of spec/00_scope.md R5, and the free values behind `UNSPEC` (R12). -/

namespace Sys2Proof

/-- How many bits `STATUS` has beyond the first (R5: open). No body: nothing can be proved of it. Log 3. -/
opaque Config.statusExtra : Nat

/-- `STATUS_W` (R5, R27; the spec's D15): open, at least 1, so one more than a number that nothing constrains. The spec's default 8
is not assumed. Log 3. -/
def Config.statusW : Nat := Config.statusExtra + 1

/-- A transport status code: zero is success, every other value a failure (R67). -/
abbrev Status := BitVec Config.statusW

/-- `DEV_ADDR` (R5, R25): the fixed 7-bit device address. -/
def Config.devAddr : BitVec 7 := 0x68

/-- `NREG` (R5, R61): the peripheral's registers have the addresses 0 to `nreg - 1`, that is 0x00 to 0x12. -/
def Config.nreg : Nat := 19

/-- `YEAR_BASE` (R5): the year that year field 0 stands for. -/
def Config.yearBase : Nat := 2000

/-- The day offset that places day 0 at `EPOCH_REF`, 1970-01-01 (R5, R223; the spec's D22: log 14). -/
def Config.epochDayOffset : Nat := 719468

/-- `PM_VALUE` (R5): the AM/PM flag value that means PM (the spec's D10: log 14). -/
def Config.pmValue : Bit := 1

/-- The two options of R5. -/
structure Options where
  /-- `HAS_EPOCH`: `GET_EPOCH` and the `EPOCH` register exist. -/
  hasEpoch : Bool
  /-- `HAS_RMW_CS`: `RMW_CS` and the mask registers exist. -/
  hasRmwCs : Bool
  deriving DecidableEq, Repr

/-- The options this hardware takes (R5: both true; log 17). -/
def Config.options : Options := { hasEpoch := true, hasRmwCs := true }

/-- `UNSPEC_w` (R12), the `n`-th free value taken in a run: any value of `w` bits. No body: nothing can be proved of it. Log 7. -/
opaque Config.unspec (w n : Nat) : BitVec w

end Sys2Proof
end

