-- ==== Sys2Proof/Syntax.lean ====
section
/-! DEFINITION. The 15 commands of spec/30_encoding.md R101, one constructor per row of spec/opcode_table.json. -/

namespace Sys2Proof

/-- A command. None has an operand in its word: operands are bank registers named by the command's rule (R100, R105). -/
inductive Instr where
  /-- `TOBCD`, code 0x01 (R142). -/
  | tobcd
  /-- `FROMBCD`, code 0x02 (R143). -/
  | frombcd
  /-- `SET_TIME`, code 0x10 (R181). -/
  | setTime
  /-- `GET_TIME`, code 0x11 (R201). -/
  | getTime
  /-- `SET_CAL`, code 0x12 (R182). -/
  | setCal
  /-- `GET_CAL`, code 0x13 (R202). -/
  | getCal
  /-- `SET_ALARM 1`, code 0x14 (R183). -/
  | setAlarm1
  /-- `GET_ALARM 1`, code 0x15 (R203). -/
  | getAlarm1
  /-- `SET_ALARM 2`, code 0x16 (R184). -/
  | setAlarm2
  /-- `GET_ALARM 2`, code 0x17 (R204). -/
  | getAlarm2
  /-- `SET_CS`, code 0x18 (R185). -/
  | setCs
  /-- `GET_CS`, code 0x19 (R205). -/
  | getCs
  /-- `RMW_CS`, code 0x1A (R186), exists when `HAS_RMW_CS`. -/
  | rmwCs
  /-- `GET_TEMP`, code 0x1B (R206). -/
  | getTemp
  /-- `GET_EPOCH`, code 0x1D (R221), exists when `HAS_EPOCH`. -/
  | getEpoch
  deriving DecidableEq, Repr

end Sys2Proof
end

