-- ==== Sys2Proof/WellFormed.lean ====
section
/-! DEFINITION. Which commands a block with given options has (spec/00_scope.md R5, spec/30_encoding.md R103). -/

namespace Sys2Proof

/-- The check of one command: the two optional commands exist only with their option (R103). -/
def wellFormed (o : Options) : Instr → Bool
  | .getEpoch => o.hasEpoch
  | .rmwCs => o.hasRmwCs
  | .tobcd | .frombcd | .setTime | .getTime | .setCal | .getCal | .setAlarm1 | .getAlarm1 | .setAlarm2 | .getAlarm2
  | .setCs | .getCs | .getTemp => true

/-- A command that a block with options `o` has. -/
abbrev WellFormed (o : Options) (i : Instr) : Prop := wellFormed o i = true

end Sys2Proof
end

