-- ==== Sys2Proof/Decode.lean ====
section
/-! DEFINITION. The command word (spec/30_encoding.md part 1): the decoder, total on all 256 bytes, and the encoder. -/

namespace Sys2Proof

/-- Why a code is reserved (R103). -/
inductive ReservedReason where
  /-- Bits 7:5 are not zero. -/
  | highBits
  /-- Group 0 with an operation other than 1 and 2. -/
  | pureGroup
  /-- The codes 0x1C, 0x1E and 0x1F. -/
  | busGroup
  /-- 0x1D without `HAS_EPOCH`. -/
  | noEpoch
  /-- 0x1A without `HAS_RMW_CS`. -/
  | noRmwCs
  deriving DecidableEq, Repr

/-- The result of decoding (R104): a command, or `Reserved` with the clause of R103 that says so. -/
inductive Decoded where
  | command (i : Instr)
  | reserved (why : ReservedReason)
  deriving DecidableEq, Repr

/-- Field `z` of format C: bits 7:5 (R100). -/
def fieldZ (c : Byte) : BitVec 3 := c.extractLsb' 5 3

/-- Field `g` of format C: bit 4 (R100). -/
def fieldG (c : Byte) : Bit := c.extractLsb' 4 1

/-- Field `op` of format C: bits 3:0 (R100). -/
def fieldOp (c : Byte) : BitVec 4 := c.extractLsb' 0 4

/-- Group 0, the pure commands (R101, R103). -/
def decodePure (op : BitVec 4) : Decoded :=
  match op.toNat with
  | 1 => .command .tobcd
  | 2 => .command .frombcd
  | _ => .reserved .pureGroup

/-- Group 1, the bus commands (R101 to R103). Operations 4 to 7 are the alarm codes: bit 1 is the alarm, bit 0 the direction. -/
def decodeBus (o : Options) (op : BitVec 4) : Decoded :=
  match op.toNat with
  | 0 => .command .setTime
  | 1 => .command .getTime
  | 2 => .command .setCal
  | 3 => .command .getCal
  | 4 => .command .setAlarm1
  | 5 => .command .getAlarm1
  | 6 => .command .setAlarm2
  | 7 => .command .getAlarm2
  | 8 => .command .setCs
  | 9 => .command .getCs
  | 10 => if o.hasRmwCs then .command .rmwCs else .reserved .noRmwCs
  | 11 => .command .getTemp
  | 13 => if o.hasEpoch then .command .getEpoch else .reserved .noEpoch
  | _ => .reserved .busGroup

/-- Decoding with given options (R103, R104): a function of the 8 bits of the code alone. -/
def decodeWith (o : Options) (c : Byte) : Decoded :=
  if fieldZ c ≠ 0 then .reserved .highBits
  else if fieldG c = 0 then decodePure (fieldOp c)
  else decodeBus o (fieldOp c)

/-- This hardware's decoder (R104). -/
def decode (c : Byte) : Decoded := decodeWith Config.options c

/-- The code of a command: the opcode map of R101. -/
def encode : Instr → Byte
  | .tobcd => 0x01
  | .frombcd => 0x02
  | .setTime => 0x10
  | .getTime => 0x11
  | .setCal => 0x12
  | .getCal => 0x13
  | .setAlarm1 => 0x14
  | .getAlarm1 => 0x15
  | .setAlarm2 => 0x16
  | .getAlarm2 => 0x17
  | .setCs => 0x18
  | .getCs => 0x19
  | .rmwCs => 0x1A
  | .getTemp => 0x1B
  | .getEpoch => 0x1D

/-- The command byte inside a table word: the low 8 of its `nbits` bits, every bit above `nbits` zero (R100: one 8-bit word). -/
def tableByte (nbits w : Nat) : Byte := BitVec.ofNat 8 (w % 2 ^ nbits)

/-- The command the decoder reads from a table word, if any. -/
def decodeTableWord (nbits w : Nat) : Option Instr :=
  match decode (tableByte nbits w) with
  | .command i => some i
  | .reserved _ => none

end Sys2Proof
end

