-- ==== Sys2Proof/Machine/State.lean ====
section
/-! DEFINITION. What the machine holds (spec/10_state.md, spec/20_memory.md R61, R64, R65), why a step can stop, and reset (R43).
The widths and names are the bank table's (R36). -/

namespace Sys2Proof.Machine

/-- The sequencer state (R22); it takes the place of a program counter. -/
inductive Phase where
  /-- No command in progress. -/
  | idle
  /-- The command's first request is emitted and not yet answered. -/
  | wait1
  /-- The command's second request is emitted and not yet answered. -/
  | wait2
  deriving DecidableEq, Repr

/-- A transport request as the block emits it (R64, R65): device address, start register, and the length or the bytes. -/
inductive Request where
  /-- `Tread(dev, start, len)`. -/
  | read (dev : BitVec 7) (start : Byte) (len : Nat)
  /-- `Twrite(dev, start, bytes)`. -/
  | write (dev : BitVec 7) (start : Byte) (bytes : List Byte)
  deriving DecidableEq, Repr

/-- The transport port (R69): a request and its answer are two events. -/
inductive Bus where
  /-- No request is outstanding. -/
  | quiet
  /-- The request is emitted and not yet answered. -/
  | pending (r : Request)
  /-- The answer has arrived: the status and, for a read, the bytes. It stands here only inside the step that delivers it. -/
  | answered (st : Status) (data : List Byte)
  deriving DecidableEq, Repr

/-- The time group `T_*` (R30). -/
structure Time where
  sec : Byte
  min : Byte
  hr : Byte
  /-- 1 for 12-hour. -/
  mode : Bit
  /-- 1 for PM. -/
  ampm : Bit
  deriving DecidableEq, Repr

/-- The calendar group `C_*` (R31). -/
structure Calendar where
  day : Byte
  date : Byte
  month : Byte
  year : Byte
  deriving DecidableEq, Repr

/-- The alarm group `A_*` (R32), one for both alarms. -/
structure Alarm where
  sec : Byte
  min : Byte
  hr : Byte
  day : Byte
  date : Byte
  am1 : Bit
  am2 : Bit
  am3 : Bit
  am4 : Bit
  /-- 1 for day-of-week, 0 for date-of-month. -/
  dydt : Bit
  mode : Bit
  ampm : Bit
  deriving DecidableEq, Repr

/-- The control/status group `CS_*` with the masks of `RMW_CS` (R33). -/
structure ControlStatus where
  ctl : Byte
  stat : Byte
  cmask : Byte
  smask : Byte
  deriving DecidableEq, Repr

/-- The operand and result registers (R29 to R35). -/
structure Bank where
  bin : Byte
  bout : Byte
  time : Time
  cal : Calendar
  alarm : Alarm
  cs : ControlStatus
  temp : BitVec 16
  epoch : BitVec 64
  deriving DecidableEq, Repr

/-- `lat[0..3]` (R24): the operands `RMW_CS` samples at issue. -/
structure LatBytes where
  b0 : Byte
  b1 : Byte
  b2 : Byte
  b3 : Byte
  deriving DecidableEq, Repr

/-- `rbuf[0..2]` (R24): the time block between the two reads of `GET_EPOCH`. -/
structure RbufBytes where
  b0 : Byte
  b1 : Byte
  b2 : Byte
  deriving DecidableEq, Repr

/-- The registers a host can name in a read (R36). -/
inductive BankReg where
  | cmd | busy | status | ill | bin | bout
  | tSec | tMin | tHr | tMode | tAmpm
  | cDay | cDate | cMonth | cYear
  | aSec | aMin | aHr | aDay | aDate | aAm1 | aAm2 | aAm3 | aAm4 | aDydt | aMode | aAmpm
  | csCtl | csStat | csCmask | csSmask
  | temp | epoch
  deriving DecidableEq, Repr

/-- The 8-bit registers the host can write (R36, host RW). -/
inductive ByteReg where
  | bin | tSec | tMin | tHr | cDay | cDate | cMonth | cYear
  | aSec | aMin | aHr | aDay | aDate | csCtl | csStat | csCmask | csSmask
  deriving DecidableEq, Repr

/-- The 1-bit registers the host can write (R36, host RW). -/
inductive BitReg where
  | tMode | tAmpm | aAm1 | aAm2 | aAm3 | aAm4 | aDydt | aMode | aAmpm
  deriving DecidableEq, Repr

/-- One thing the outside does to the block (R7): the host's accesses and the environment's events. Log 1, log 2. -/
inductive Input where
  /-- The host writes `CMD` (R26). -/
  | cmd (c : Byte)
  /-- The host writes an 8-bit bank register (R39). -/
  | wrByte (r : ByteReg) (v : Byte)
  /-- The host writes a 1-bit bank register (R39). -/
  | wrBit (r : BitReg) (v : Bit)
  /-- The host reads a register (R39). -/
  | rd (r : BankReg)
  /-- The environment changes one of the 19 peripheral registers (R75). -/
  | regChange (a : Fin Config.nreg) (v : Byte)
  /-- The transport answers the outstanding request with a status (R64, R65, R67). -/
  | answer (st : Status)
  deriving DecidableEq, Repr

/-- The peripheral's registers that do not read as an unlisted one does, by rising address (R61, R80). -/
abbrev Memory := List Host.Cell

/-- What the model stops with. The block itself has no fault (R240, R247); none of these is an effect of a command. All are safe. -/
inductive Fault where
  /-- Raised by `handle`: the schedule holds an answer where no request is outstanding. The environment answers requests and
  nothing else (R7, R69). Safe: log 11. -/
  | unsolicitedAnswer
  /-- Raised by a meaning: the phase names a label that the command does not have (a second answer to a one-request command, any
  answer to a pure one). No run reaches it (R22). Safe: log 12. -/
  | noSuchLabel
  /-- Raised by a meaning: a successful read delivered another number of bytes than was asked. No run reaches it (R65). Safe: log 12. -/
  | malformedAnswer
  /-- Raised by `resume`: an answer arrives and `cur` holds no legal code. No run reaches it (R22). Safe: log 12. -/
  | lostCommand
  deriving DecidableEq, Repr

/-- Why a command has no meaning. -/
inductive Refusal where
  /-- Raised by `exec` for a command that has no meaning yet; every command of this model has one. Safe. -/
  | notModelled (mnemonic : String)
  deriving DecidableEq, Repr

/-- Everything the machine holds. -/
structure State where
  /-- `DEV_ADDR` (R25). -/
  devAddr : BitVec 7
  /-- `phase` (R22). -/
  phase : Phase
  /-- `cur` (R22): the code of the command in progress. -/
  cur : Byte
  /-- The transport port (R69). -/
  bus : Bus
  /-- `lat` (R24). -/
  lat : LatBytes
  /-- `rbuf` (R24). -/
  rbuf : RbufBytes
  /-- `STATUS` (R27). -/
  status : Status
  /-- `ILL` (R28). -/
  ill : Bit
  /-- The bank (R29 to R35). -/
  bank : Bank
  /-- The peripheral's registers `RF` (R61), the environment's state. -/
  mem : Memory
  /-- The model's own: the number that the host's last read returned, its register's bits read as unsigned (R39). A number, because the
  registers' widths differ and `STATUS_W` is open. Log 9. -/
  hostData : Nat
  /-- The model's own: how many free values have been taken (R12). Log 7. -/
  draws : Nat
  /-- What the host and the environment do, oldest first (R7). Log 1. -/
  inputs : List Input
  deriving DecidableEq, Repr

/-- Every operand and result register at zero: the value the model names where R43 says `UNSPEC`. DESIGN CHOICE, unsafe, log 4. -/
def Bank.atReset : Bank :=
  { bin := 0, bout := 0
    time := { sec := 0, min := 0, hr := 0, mode := 0, ampm := 0 }
    cal := { day := 0, date := 0, month := 0, year := 0 }
    alarm :=
      { sec := 0, min := 0, hr := 0, day := 0, date := 0
        am1 := 0, am2 := 0, am3 := 0, am4 := 0, dydt := 0, mode := 0, ampm := 0 }
    cs := { ctl := 0, stat := 0, cmask := 0, smask := 0 }
    temp := 0, epoch := 0 }

/-- The machine after construction (R43, R270): `DEV_ADDR` 0x68, `phase` IDLE, `STATUS` 0, `ILL` 0, no request made (R271).
`cur`, `lat`, `rbuf` and the bank are `UNSPEC` in R43 and zero here (log 4); no peripheral register is listed (log 6). -/
def State.reset : State :=
  { devAddr := Config.devAddr
    phase := .idle
    cur := 0
    bus := .quiet
    lat := { b0 := 0, b1 := 0, b2 := 0, b3 := 0 }
    rbuf := { b0 := 0, b1 := 0, b2 := 0 }
    status := 0
    ill := 0
    bank := Bank.atReset
    mem := []
    hostData := 0
    draws := 0
    inputs := [] }

end Sys2Proof.Machine
end

