-- ==== Sys2Proof/Machine/Operands.lean ====
section
/-! DEFINITION. The BCD codec (spec/40_bcd_codec.md), the register byte formats (spec/30_encoding.md part 2) and the field
encoders and decoders (spec/41_field_codec.md). Pure functions (R147, R150); none checks a range (R146). -/

namespace Sys2Proof.Machine

/-- `to_bcd` (R140), evaluated on natural numbers and cut to 8 bits; for 100 and above this is the spec's D5 (log 13). -/
def toBcd (v : Byte) : Byte := BitVec.ofNat 8 (((v.toNat / 10) <<< 4) ||| (v.toNat % 10))

/-- `from_bcd` (R141); the result is at most 165, so 8 bits hold it (R144). -/
def fromBcd (b : Byte) : Byte := ((b >>> 4) &&& 0x0F) * 10 + (b &&& 0x0F)

/-- The field of `b` of width `w` from bit `lo` up: `b[lo+w-1:lo]` (R8). -/
def field (b : Byte) (lo w : Nat) : BitVec w := b.extractLsb' lo w

/-- The BCD value of a field: the codec applied to the field widened to 8 bits (R107). -/
def bcdField (b : Byte) (w : Nat) : Byte := fromBcd ((field b 0 w).setWidth 8)

/-! Seconds and minutes, format F-SM (R108, R151). -/

def encSm (v : Byte) : Byte := 0#1 ++ field (toBcd v) 0 7

def decSm (b : Byte) : Byte := bcdField b 7

/-! Hours, bits 6:0 of formats F-HR and F-AHR (R109, R112, R152, R153). -/

/-- In 24-hour mode the AM/PM flag is not used (R152). -/
def encHr (h : Byte) (mode ampm : Bit) : BitVec 7 :=
  if mode = 1 then 1#1 ++ ampm ++ field (toBcd h) 0 5 else 0#1 ++ field (toBcd h) 0 6

/-- The hour, mode and AM/PM flag of bits 6:0; in 24-hour mode the flag is 0 (R153, the spec's D9: log 13). -/
def decHr (b : Byte) : Byte × Bit × Bit :=
  if field b 6 1 = 1 then (bcdField b 5, 1, field b 5 1) else (bcdField b 6, 0, 0)

/-! The time block (R154, R155). -/

def encTime (t : Time) : List Byte := [encSm t.sec, encSm t.min, 0#1 ++ encHr t.hr t.mode t.ampm]

def decTime (d : List Byte) : Option Time :=
  match d with
  | [b0, b1, b2] =>
    let (hr, mode, ampm) := decHr b2
    some { sec := decSm b0, min := decSm b1, hr := hr, mode := mode, ampm := ampm }
  | _ => none

/-! The calendar block, format F-CAL: whole bytes (R110, R156, R157). -/

def encCal (c : Calendar) : List Byte := [toBcd c.day, toBcd c.date, toBcd c.month, toBcd c.year]

def decCal (d : List Byte) : Option Calendar :=
  match d with
  | [b0, b1, b2, b3] => some { day := fromBcd b0, date := fromBcd b1, month := fromBcd b2, year := fromBcd b3 }
  | _ => none

/-! Alarm registers: F-ASM (R111, R158), F-AHR (R112, R159), F-ADD (R113, R160, R161). -/

def encAsm (am : Bit) (v : Byte) : Byte := am ++ field (toBcd v) 0 7

def decAsm (b : Byte) : Bit × Byte := (field b 7 1, bcdField b 7)

def encAhr (am3 : Bit) (h : Byte) (mode ampm : Bit) : Byte := am3 ++ encHr h mode ampm

def decAhr (b : Byte) : Bit × Byte × Bit × Bit := (field b 7 1, decHr b)

/-- Only the selected one of `day` and `date` counts (R160). -/
def encAdd (am4 dydt : Bit) (day date : Byte) : Byte :=
  am4 ++ dydt ++ field (toBcd (if dydt = 1 then day else date)) 0 6

/-- `(am4, dydt, day, date)`; the unselected one of day and date is the free value `u` (R161). -/
def decAdd (u b : Byte) : Bit × Bit × Byte × Byte :=
  if field b 6 1 = 1 then (field b 7 1, 1, bcdField b 6, u) else (field b 7 1, 0, u, bcdField b 6)

/-- The four bytes of Alarm 1 (R162). -/
def encAlarm1 (a : Alarm) : List Byte :=
  [encAsm a.am1 a.sec, encAsm a.am2 a.min, encAhr a.am3 a.hr a.mode a.ampm, encAdd a.am4 a.dydt a.day a.date]

/-- Alarm 1 from its four bytes (R163), with the unselected one of day and date the free value `u`. -/
def decAlarm1 (u : Byte) (d : List Byte) : Option Alarm :=
  match d with
  | [b0, b1, b2, b3] =>
    let (am1, sec) := decAsm b0
    let (am2, min) := decAsm b1
    let (am3, hr, mode, ampm) := decAhr b2
    let (am4, dydt, day, date) := decAdd u b3
    some
      { sec := sec, min := min, hr := hr, day := day, date := date
        am1 := am1, am2 := am2, am3 := am3, am4 := am4, dydt := dydt, mode := mode, ampm := ampm }
  | _ => none

/-- The three bytes of Alarm 2 (R164): `sec` and `am1` have no influence. -/
def encAlarm2 (a : Alarm) : List Byte :=
  [encAsm a.am2 a.min, encAhr a.am3 a.hr a.mode a.ampm, encAdd a.am4 a.dydt a.day a.date]

/-- Alarm 2 from its three bytes (R165): the unselected one of day and date, the seconds and am1 are the free values given. -/
def decAlarm2 (u sec : Byte) (am1 : Bit) (d : List Byte) : Option Alarm :=
  match d with
  | [b0, b1, b2] =>
    let (am2, min) := decAsm b0
    let (am3, hr, mode, ampm) := decAhr b1
    let (am4, dydt, day, date) := decAdd u b2
    some
      { sec := sec, min := min, hr := hr, day := day, date := date
        am1 := am1, am2 := am2, am3 := am3, am4 := am4, dydt := dydt, mode := mode, ampm := ampm }
  | _ => none

/-! Control/status, temperature, merge (R167 to R169). -/

/-- The two raw bytes, `CONTROL` first (R167). -/
def encCs (c : ControlStatus) : List Byte := [c.ctl, c.stat]

/-- The two bytes as they are (R167). -/
def decCs (d : List Byte) : Option (Byte × Byte) :=
  match d with
  | [b0, b1] => some (b0, b1)
  | _ => none

/-- The byte of `TEMP_MSB` is the high one (R72, R168). -/
def temp16 (d : List Byte) : Option (BitVec 16) :=
  match d with
  | [b0, b1] => some (b0 ++ b1)
  | _ => none

/-- Each bit from `new` where the mask has 1, from `old` where it has 0 (R169). -/
def merge (old new mask : Byte) : Byte := (old &&& ~~~mask) ||| (new &&& mask)

end Sys2Proof.Machine
end

