-- ==== Sys2Proof/Machine/Flags.lean ====
section
/-! DEFINITION. The block's only flags (spec/10_state.md R37): `BUSY`, `ILL` and the zero reading of `STATUS`. -/

namespace Sys2Proof.Machine

/-- `BUSY` (R23): 1 exactly when `phase` is not IDLE. -/
def busy (s : State) : Bit := if s.phase = .idle then 0 else 1

/-- A status means success exactly when it is zero (R67). -/
def succeeded (st : Status) : Bool := st = 0

/-- `ILL <- 0`: what issuing a legal command does (R28). -/
def clearIll (s : State) : State := { s with ill := 0 }

/-- `ILL <- 1` (R28, R243). -/
def setIll (s : State) : State := { s with ill := 1 }

/-- `STATUS <- st`, the transport's code unchanged (R27, R207). -/
def setStatus (st : Status) (s : State) : State := { s with status := st }

end Sys2Proof.Machine
end

