-- ==== Sys2Proof/Machine/Ops.lean ====
section
/-! DEFINITION. The named operations over the peripheral's registers, the transport port and the sequencer
(spec/10_state.md R22 to R28, spec/20_memory.md R64 to R70 and R80, spec/60_exceptions.md R243). -/

namespace Sys2Proof.Machine

/-- The outcome of a meaning. -/
abbrev Result := Host.Outcome State Fault Refusal

/-! The peripheral's registers. -/

/-- What a register that is not listed reads as. The spec gives no reset value (N9): zero, DESIGN CHOICE, unsafe, log 6. -/
def Memory.unlisted : Byte := 0

/-- `RF[a]`. -/
def Memory.read (m : Memory) (a : Nat) : Byte :=
  match m with
  | [] => Memory.unlisted
  | (b, v) :: rest => if a = b then v else Memory.read rest a

/-- List `v` at `a`, keeping the addresses rising. -/
def Memory.insert (a : Nat) (v : Byte) : Memory → Memory
  | [] => [(a, v)]
  | (b, u) :: rest =>
    if a < b then (a, v) :: (b, u) :: rest
    else if a = b then (a, v) :: rest
    else (b, u) :: Memory.insert a v rest

/-- Take `a` off the list. -/
def Memory.erase (a : Nat) (m : Memory) : Memory := m.filter fun c => c.1 ≠ a

/-- `RF[a] <- v`, in canonical form: a value that an unlisted register reads as is not listed. -/
def Memory.write (a : Nat) (v : Byte) (m : Memory) : Memory :=
  if v = Memory.unlisted then Memory.erase a m else Memory.insert a v m

/-- The canonical form: rising addresses, only registers that exist (R61), nothing listed that reads so unlisted. -/
abbrev Memory.wf (m : Memory) : Prop :=
  m.Pairwise (fun x y => x.1 < y.1) ∧ ∀ c ∈ m, c.1 < Config.nreg ∧ c.2 ≠ Memory.unlisted

/-- The bytes of `n` consecutive registers from `start`, ascending (R65, R71). -/
def Memory.readBurst (m : Memory) (start : Nat) : Nat → List Byte
  | 0 => []
  | n + 1 => m.read start :: Memory.readBurst m (start + 1) n

/-- Write bytes to consecutive registers from `start`, ascending (R64, R71). -/
def Memory.writeBurst (start : Nat) (w : List Byte) (m : Memory) : Memory :=
  match w with
  | [] => m
  | v :: rest => Memory.writeBurst (start + 1) rest (m.write start v)

/-! Free values (R12): the state's counter numbers them. -/

/-- `n` free bytes, the `k`-th free value first. -/
def freeBytes (k : Nat) : Nat → List Byte
  | 0 => []
  | n + 1 => Config.unspec 8 k :: freeBytes (k + 1) n

/-- Count `n` free values as taken. -/
def advanceDraws (n : Nat) (s : State) : State := { s with draws := s.draws + n }

/-! The environment's side of a transaction. -/

/-- The device address a request carries (R66). -/
def Request.dev : Request → BitVec 7
  | .read d _ _ => d
  | .write d _ _ => d

/-- The register address a request starts at (R64, R65). -/
def Request.start : Request → Byte
  | .read _ a _ => a
  | .write _ a _ => a

/-- How many registers a request addresses (R64, R65). -/
def Request.len : Request → Nat
  | .read _ _ n => n
  | .write _ _ w => w.length

/-- The request is to the device and inside its register map (R80). -/
def Request.inMap (r : Request) : Bool :=
  r.dev = Config.devAddr ∧ r.start.toNat + r.len ≤ Config.nreg

/-- The status of a request the device does not have (R80). -/
def noDevice : Status := 1

/-- The transport carries out request `r` with status `st` and answers (R64, R65, R68, R80). A successful write stores its bytes,
a failed one leaves every addressed register a free value; a successful read delivers the registers' bytes, a failed one
free bytes. Outside the map: status 1, nothing changed. -/
def transport (st : Status) (r : Request) (s : State) : State :=
  if r.inMap then
    match r with
    | .read _ start n =>
      if succeeded st then { s with bus := .answered st (s.mem.readBurst start.toNat n) }
      else advanceDraws n { s with bus := .answered st (freeBytes s.draws n) }
    | .write _ start w =>
      if succeeded st then { s with bus := .answered st [], mem := s.mem.writeBurst start.toNat w }
      else
        advanceDraws w.length
          { s with bus := .answered st [], mem := s.mem.writeBurst start.toNat (freeBytes s.draws w.length) }
  else
    match r with
    | .read _ _ n => advanceDraws n { s with bus := .answered noDevice (freeBytes s.draws n) }
    | .write _ _ _ => { s with bus := .answered noDevice [] }

/-! The sequencer (R22). -/

/-- The end of an `ISSUE` label of a bus command: `ILL <- 0; cur <- code; emit r; phase <- WAIT1`. -/
def issue (code : Byte) (r : Request) (s : State) : State :=
  { clearIll s with cur := code, bus := .pending r, phase := .wait1 }

/-- The second request of a command: `emit r; phase <- WAIT2`. -/
def emitSecond (r : Request) (s : State) : State :=
  { s with bus := .pending r, phase := .wait2 }

/-- The end of a bus command: `STATUS <- st; phase <- IDLE`. With `phase` IDLE the buffers `lat` and `rbuf` are `UNSPEC` (R24) and
`cur` means nothing (R22): all eight bytes become free values (log 8). -/
def finish (st : Status) (s : State) : State :=
  let k := s.draws
  { advanceDraws 8 (setStatus st s) with
    phase := .idle
    bus := .quiet
    cur := Config.unspec 8 k
    lat :=
      { b0 := Config.unspec 8 (k + 1), b1 := Config.unspec 8 (k + 2)
        b2 := Config.unspec 8 (k + 3), b3 := Config.unspec 8 (k + 4) }
    rbuf := { b0 := Config.unspec 8 (k + 5), b1 := Config.unspec 8 (k + 6), b2 := Config.unspec 8 (k + 7) } }

/-- Run a label with the answer that has arrived; without one the block waits and has no step of its own (R69). -/
def onAnswer (s : State) (label : Status → List Byte → Result) : Result :=
  match s.bus with
  | .answered st d => label st d
  | .quiet => .next s
  | .pending _ => .next s

/-- `raise Illegal` (R243): `ILL <- 1` and nothing else. The one exception-like operation of the block; there is no return (R247). -/
def raiseIllegal (s : State) : State := setIll s

/-- A bus command that is one write of `w` at `start` (R180). -/
def writeCommand (code start : Byte) (w : List Byte) (s : State) : Result :=
  match s.phase with
  | .idle => .next (issue code (.write s.devAddr start w) s)
  | .wait1 => onAnswer s fun st _ => .next (finish st s)
  | .wait2 => .fault .noSuchLabel

/-- A bus command that is one read of `n` registers at `start` (R200): on success `store` decodes the bytes into the bank, on
failure `lose` makes every output a free value. -/
def readCommand (code start : Byte) (n : Nat) (store : List Byte → State → Option State) (lose : State → State)
    (s : State) : Result :=
  match s.phase with
  | .idle => .next (issue code (.read s.devAddr start n) s)
  | .wait1 =>
    onAnswer s fun st d =>
      if succeeded st then
        match store d s with
        | some t => .next (finish st t)
        | none => .fault .malformedAnswer
      else .next (finish st (lose s))
  | .wait2 => .fault .noSuchLabel

/-- Put a command byte where `step` takes its next command from: the host writes it to `CMD` with the block idle (R26). -/
def presentCommand (c : Byte) (s : State) : State :=
  { s with phase := .idle, bus := .quiet, inputs := .cmd c :: s.inputs }

end Sys2Proof.Machine
end

