-- ==== Sys2Proof/Machine/Codec.lean ====
section
/-! DEFINITION. The pure commands `TOBCD` and `FROMBCD` (spec/40_bcd_codec.md R142, R143). -/

namespace Sys2Proof.Machine

/-- A pure command: one step at issue, `BOUT <- f(BIN)`, `ILL <- 0`, `STATUS` not written, `phase` stays IDLE. It has no answer label. -/
def pureCommand (f : Byte → Byte) (s : State) : Result :=
  match s.phase with
  | .idle => .next { clearIll s with bank := { s.bank with bout := f s.bank.bin } }
  | .wait1 => .fault .noSuchLabel
  | .wait2 => .fault .noSuchLabel

/-- `TOBCD` (R142). -/
def execTobcd (s : State) : Result := pureCommand toBcd s

/-- `FROMBCD` (R143). -/
def execFrombcd (s : State) : Result := pureCommand fromBcd s

end Sys2Proof.Machine
end

