-- ==== Sys2Proof/Machine/Epoch.lean ====
section
/-! DEFINITION. The epoch arithmetic and `GET_EPOCH` (spec/44_epoch.md R220 to R224). -/

namespace Sys2Proof.Machine

/-- `hour24` (R222; polarity and hour 12 are the spec's D10 and D21: log 14). -/
def hour24 (hr : Byte) (mode ampm : Bit) : Nat :=
  if mode = 1 then hr.toNat % 12 + (if ampm = Config.pmValue then 12 else 0) else hr.toNat

/-- `days_of` (R223): days from 1970-01-01 to a date of the proleptic Gregorian calendar; the division floors. The spec gives it for a
month from 1 to 12 and calls it `UNSPEC` otherwise; the formula's number there is no value of the spec: DESIGN CHOICE, log 29. `epochOf`
does not use it then. -/
def daysOf (date month year : Byte) : Int :=
  let y : Int := (Config.yearBase : Int) + year.toNat - (if month.toNat ≤ 2 then 1 else 0)
  let era : Int := y / 400
  let yoe : Int := y - era * 400
  let mp : Int := ((month.toNat : Int) + 9) % 12
  let doy : Int := (153 * mp + 2) / 5 + date.toNat - 1
  let doe : Int := yoe * 365 + yoe / 4 - yoe / 100 + doy
  era * 146097 + doe - Config.epochDayOffset

/-- The sum of R224, before it is narrowed: defined for a month from 1 to 12. -/
def epochSeconds (t : Time) (c : Calendar) : Int :=
  daysOf c.date c.month c.year * 86400 + (hour24 t.hr t.mode t.ampm : Int) * 3600 + (t.min.toNat : Int) * 60 + t.sec.toNat

/-- The month is one that R224 gives a value for. -/
def monthInRange (c : Calendar) : Bool := 1 ≤ c.month.toNat ∧ c.month.toNat ≤ 12

/-- `epoch_of` (R224): two's complement of 64 bits for a month from 1 to 12, else the free value `u` (the spec's D23: log 25). -/
def epochOf (u : BitVec 64) (t : Time) (c : Calendar) : BitVec 64 :=
  if monthInRange c then BitVec.ofInt 64 (epochSeconds t c) else u

/-- Put a value into `EPOCH`. -/
def storeEpoch (v : BitVec 64) (s : State) : State := { s with bank := { s.bank with epoch := v } }

/-- The failed `GET_EPOCH`: `EPOCH` a free value. -/
def loseEpoch (s : State) : State := advanceDraws 1 (storeEpoch (Config.unspec 64 s.draws) s)

/-- `rbuf <- d`: the time block is kept for the second answer (R221). -/
def keepTimeBlock (d : List Byte) (s : State) : Option State :=
  match d with
  | [b0, b1, b2] => some { s with rbuf := { b0 := b0, b1 := b1, b2 := b2 } }
  | _ => none

/-- `EPOCH` from the kept time block and the calendar bytes (R221); the time and calendar groups are not touched. -/
def deriveEpoch (e : List Byte) (s : State) : Option State :=
  match decTime [s.rbuf.b0, s.rbuf.b1, s.rbuf.b2], decCal e with
  | some t, some c => some (advanceDraws 1 (storeEpoch (epochOf (Config.unspec 64 s.draws) t c) s))
  | _, _ => none

/-- `GET_EPOCH` (R221): the time block, then the calendar block; no second read after a failed first (log 16). -/
def execGetEpoch (s : State) : Result :=
  match s.phase with
  | .idle => .next (issue 0x1D (.read s.devAddr 0x00 3) s)
  | .wait1 =>
    onAnswer s fun st d =>
      if succeeded st then
        match keepTimeBlock d s with
        | some t => .next (emitSecond (.read s.devAddr 0x03 4) t)
        | none => .fault .malformedAnswer
      else .next (finish st (loseEpoch s))
  | .wait2 =>
    onAnswer s fun st e =>
      if succeeded st then
        match deriveEpoch e s with
        | some t => .next (finish st t)
        | none => .fault .malformedAnswer
      else .next (finish st (loseEpoch s))

end Sys2Proof.Machine
end

