-- ==== Sys2Proof/Machine/Get.lean ====
section
/-! DEFINITION. The read commands of one transaction (spec/43_get_commands.md R200 to R206). On failure every output register is a
free value (R42, R200). -/

namespace Sys2Proof.Machine

/-- Put a value into the time group. -/
def storeTime (t : Time) (s : State) : State := { s with bank := { s.bank with time := t } }

/-- Put a value into the calendar group. -/
def storeCal (c : Calendar) (s : State) : State := { s with bank := { s.bank with cal := c } }

/-- Put a value into the alarm group. -/
def storeAlarm (a : Alarm) (s : State) : State := { s with bank := { s.bank with alarm := a } }

/-- Put a pair into `CS_CTL`, `CS_STAT`; the masks stay (R205). -/
def storeCs (p : Byte × Byte) (s : State) : State :=
  { s with bank := { s.bank with cs := { s.bank.cs with ctl := p.1, stat := p.2 } } }

/-- Put a value into `TEMP`. -/
def storeTemp (v : BitVec 16) (s : State) : State := { s with bank := { s.bank with temp := v } }

/-- A time group of free values, the `k`-th first. -/
def freeTime (k : Nat) : Time :=
  { sec := Config.unspec 8 k, min := Config.unspec 8 (k + 1), hr := Config.unspec 8 (k + 2)
    mode := Config.unspec 1 (k + 3), ampm := Config.unspec 1 (k + 4) }

/-- A calendar group of free values, the `k`-th first. -/
def freeCal (k : Nat) : Calendar :=
  { day := Config.unspec 8 k, date := Config.unspec 8 (k + 1), month := Config.unspec 8 (k + 2), year := Config.unspec 8 (k + 3) }

/-- An alarm group of free values, the `k`-th first. -/
def freeAlarm (k : Nat) : Alarm :=
  { sec := Config.unspec 8 k, min := Config.unspec 8 (k + 1), hr := Config.unspec 8 (k + 2)
    day := Config.unspec 8 (k + 3), date := Config.unspec 8 (k + 4)
    am1 := Config.unspec 1 (k + 5), am2 := Config.unspec 1 (k + 6), am3 := Config.unspec 1 (k + 7), am4 := Config.unspec 1 (k + 8)
    dydt := Config.unspec 1 (k + 9), mode := Config.unspec 1 (k + 10), ampm := Config.unspec 1 (k + 11) }

/-- The failed `GET_TIME`: all five outputs free. -/
def loseTime (s : State) : State := advanceDraws 5 (storeTime (freeTime s.draws) s)

/-- The failed `GET_CAL`: all four outputs free. -/
def loseCal (s : State) : State := advanceDraws 4 (storeCal (freeCal s.draws) s)

/-- The failed `GET_ALARM`: all twelve outputs free. -/
def loseAlarm (s : State) : State := advanceDraws 12 (storeAlarm (freeAlarm s.draws) s)

/-- The failed `GET_CS`: both outputs free. -/
def loseCs (s : State) : State := advanceDraws 2 (storeCs (Config.unspec 8 s.draws, Config.unspec 8 (s.draws + 1)) s)

/-- The failed `GET_TEMP`: the output free. -/
def loseTemp (s : State) : State := advanceDraws 1 (storeTemp (Config.unspec 16 s.draws) s)

/-- `GET_TIME` (R201). -/
def execGetTime (s : State) : Result :=
  readCommand 0x11 0x00 3 (fun d t => (decTime d).map fun v => storeTime v t) loseTime s

/-- `GET_CAL` (R202). -/
def execGetCal (s : State) : Result :=
  readCommand 0x13 0x03 4 (fun d t => (decCal d).map fun v => storeCal v t) loseCal s

/-- `GET_ALARM 1` (R203): after success the unselected one of `A_DAY`, `A_DATE` is a free value. -/
def execGetAlarm1 (s : State) : Result :=
  readCommand 0x15 0x07 4
    (fun d t => (decAlarm1 (Config.unspec 8 t.draws) d).map fun v => advanceDraws 1 (storeAlarm v t)) loseAlarm s

/-- `GET_ALARM 2` (R204): after success `A_SEC`, `A_AM1` and the unselected one of `A_DAY`, `A_DATE` are free values. -/
def execGetAlarm2 (s : State) : Result :=
  readCommand 0x17 0x0B 3
    (fun d t =>
      (decAlarm2 (Config.unspec 8 t.draws) (Config.unspec 8 (t.draws + 1)) (Config.unspec 1 (t.draws + 2)) d).map
        fun v => advanceDraws 3 (storeAlarm v t))
    loseAlarm s

/-- `GET_CS` (R205): one burst of two bytes (log 15). -/
def execGetCs (s : State) : Result :=
  readCommand 0x19 0x0E 2 (fun d t => (decCs d).map fun p => storeCs p t) loseCs s

/-- `GET_TEMP` (R206): one burst of two bytes (log 15), `STATUS` written (log 16). -/
def execGetTemp (s : State) : Result :=
  readCommand 0x1B 0x11 2 (fun d t => (temp16 d).map fun v => storeTemp v t) loseTemp s

end Sys2Proof.Machine
end

