-- ==== Sys2Proof/Machine/Set.lean ====
section
/-! DEFINITION. The write commands (spec/42_set_commands.md R180 to R186). -/

namespace Sys2Proof.Machine

/-- `SET_TIME` (R181). -/
def execSetTime (s : State) : Result := writeCommand 0x10 0x00 (encTime s.bank.time) s

/-- `SET_CAL` (R182). -/
def execSetCal (s : State) : Result := writeCommand 0x12 0x03 (encCal s.bank.cal) s

/-- `SET_ALARM 1` (R183). -/
def execSetAlarm1 (s : State) : Result := writeCommand 0x14 0x07 (encAlarm1 s.bank.alarm) s

/-- `SET_ALARM 2` (R184). -/
def execSetAlarm2 (s : State) : Result := writeCommand 0x16 0x0B (encAlarm2 s.bank.alarm) s

/-- `SET_CS` (R185): one burst of two bytes, no read (spec/90_conflicts.md C1; log 15). -/
def execSetCs (s : State) : Result := writeCommand 0x18 0x0E (encCs s.bank.cs) s

/-- `lat <- [CS_CTL, CS_STAT, CS_CMASK, CS_SMASK]`: what `RMW_CS` samples at issue (R186, R39). -/
def sampleCs (s : State) : State :=
  { s with lat := { b0 := s.bank.cs.ctl, b1 := s.bank.cs.stat, b2 := s.bank.cs.cmask, b3 := s.bank.cs.smask } }

/-- The two bytes `RMW_CS` writes back: the bytes read, merged with the sampled operands under the sampled masks (R186). -/
def mergedCs (l : LatBytes) (b0 b1 : Byte) : List Byte := [merge b0 l.b0 l.b2, merge b1 l.b1 l.b3]

/-- `RMW_CS` (R186): a read, and after a successful one the merged write; a failed read ends the command (log 16). -/
def execRmwCs (s : State) : Result :=
  match s.phase with
  | .idle => .next (issue 0x1A (.read s.devAddr 0x0E 2) (sampleCs s))
  | .wait1 =>
    onAnswer s fun st d =>
      if succeeded st then
        match decCs d with
        | some (b0, b1) => .next (emitSecond (.write s.devAddr 0x0E (mergedCs s.lat b0 b1)) s)
        | none => .fault .malformedAnswer
      else .next (finish st s)
  | .wait2 => onAnswer s fun st _ => .next (finish st s)

end Sys2Proof.Machine
end

