-- ==== Sys2Proof/Machine/Dispatch.lean ====
section
/-! DEFINITION. Each command's meaning: the label its phase selects, ISSUE at IDLE, RESP1 at WAIT1, RESP2 at WAIT2 (spec/00_scope.md R14). -/

namespace Sys2Proof.Machine

def exec (i : Instr) (s : State) : Host.Outcome State Fault Refusal :=
  match i with
  | .tobcd => Sys2Proof.Machine.execTobcd s
  | .frombcd => Sys2Proof.Machine.execFrombcd s
  | .setTime => Sys2Proof.Machine.execSetTime s
  | .getTime => Sys2Proof.Machine.execGetTime s
  | .setCal => Sys2Proof.Machine.execSetCal s
  | .getCal => Sys2Proof.Machine.execGetCal s
  | .setAlarm1 => Sys2Proof.Machine.execSetAlarm1 s
  | .getAlarm1 => Sys2Proof.Machine.execGetAlarm1 s
  | .setAlarm2 => Sys2Proof.Machine.execSetAlarm2 s
  | .getAlarm2 => Sys2Proof.Machine.execGetAlarm2 s
  | .setCs => Sys2Proof.Machine.execSetCs s
  | .getCs => Sys2Proof.Machine.execGetCs s
  | .rmwCs => Sys2Proof.Machine.execRmwCs s
  | .getTemp => Sys2Proof.Machine.execGetTemp s
  | .getEpoch => Sys2Proof.Machine.execGetEpoch s

end Sys2Proof.Machine
end

