-- ==== Sys2Proof/Machine/HostPort.lean ====
section
/-! DEFINITION. The host's accesses to the bank (spec/10_state.md R26, R36, R39, R40), the listing's pseudo-commands
(spec/30_encoding.md R106), and what one entry of the schedule does (spec/00_scope.md R6, R7). -/

namespace Sys2Proof.Machine

/-- A write to an 8-bit bank register. -/
def putByte (r : ByteReg) (v : Byte) (b : Bank) : Bank :=
  match r with
  | .bin => { b with bin := v }
  | .tSec => { b with time := { b.time with sec := v } }
  | .tMin => { b with time := { b.time with min := v } }
  | .tHr => { b with time := { b.time with hr := v } }
  | .cDay => { b with cal := { b.cal with day := v } }
  | .cDate => { b with cal := { b.cal with date := v } }
  | .cMonth => { b with cal := { b.cal with month := v } }
  | .cYear => { b with cal := { b.cal with year := v } }
  | .aSec => { b with alarm := { b.alarm with sec := v } }
  | .aMin => { b with alarm := { b.alarm with min := v } }
  | .aHr => { b with alarm := { b.alarm with hr := v } }
  | .aDay => { b with alarm := { b.alarm with day := v } }
  | .aDate => { b with alarm := { b.alarm with date := v } }
  | .csCtl => { b with cs := { b.cs with ctl := v } }
  | .csStat => { b with cs := { b.cs with stat := v } }
  | .csCmask => { b with cs := { b.cs with cmask := v } }
  | .csSmask => { b with cs := { b.cs with smask := v } }

/-- A write to a 1-bit bank register. -/
def putBit (r : BitReg) (v : Bit) (b : Bank) : Bank :=
  match r with
  | .tMode => { b with time := { b.time with mode := v } }
  | .tAmpm => { b with time := { b.time with ampm := v } }
  | .aAm1 => { b with alarm := { b.alarm with am1 := v } }
  | .aAm2 => { b with alarm := { b.alarm with am2 := v } }
  | .aAm3 => { b with alarm := { b.alarm with am3 := v } }
  | .aAm4 => { b with alarm := { b.alarm with am4 := v } }
  | .aDydt => { b with alarm := { b.alarm with dydt := v } }
  | .aMode => { b with alarm := { b.alarm with mode := v } }
  | .aAmpm => { b with alarm := { b.alarm with ampm := v } }

/-- A host write to the bank: done at once when idle (R39), ignored while busy (R40). -/
def hostWrite (put : Bank → Bank) (s : State) : State :=
  if s.phase = .idle then { s with bank := put s.bank } else s

/-- The width of a register (R36). -/
def BankReg.width : BankReg → Nat
  | .busy | .ill | .tMode | .tAmpm | .aAm1 | .aAm2 | .aAm3 | .aAm4 | .aDydt | .aMode | .aAmpm => 1
  | .status => Config.statusW
  | .temp => 16
  | .epoch => 64
  | .cmd | .bin | .bout | .tSec | .tMin | .tHr | .cDay | .cDate | .cMonth | .cYear
  | .aSec | .aMin | .aHr | .aDay | .aDate | .csCtl | .csStat | .csCmask | .csSmask => 8

/-- What a register holds, as an unsigned number; `none` for `CMD`, which is write-only (R26). -/
def regValue (r : BankReg) (s : State) : Option Nat :=
  match r with
  | .cmd => none
  | .busy => some (busy s).toNat
  | .status => some s.status.toNat
  | .ill => some s.ill.toNat
  | .bin => some s.bank.bin.toNat
  | .bout => some s.bank.bout.toNat
  | .tSec => some s.bank.time.sec.toNat
  | .tMin => some s.bank.time.min.toNat
  | .tHr => some s.bank.time.hr.toNat
  | .tMode => some s.bank.time.mode.toNat
  | .tAmpm => some s.bank.time.ampm.toNat
  | .cDay => some s.bank.cal.day.toNat
  | .cDate => some s.bank.cal.date.toNat
  | .cMonth => some s.bank.cal.month.toNat
  | .cYear => some s.bank.cal.year.toNat
  | .aSec => some s.bank.alarm.sec.toNat
  | .aMin => some s.bank.alarm.min.toNat
  | .aHr => some s.bank.alarm.hr.toNat
  | .aDay => some s.bank.alarm.day.toNat
  | .aDate => some s.bank.alarm.date.toNat
  | .aAm1 => some s.bank.alarm.am1.toNat
  | .aAm2 => some s.bank.alarm.am2.toNat
  | .aAm3 => some s.bank.alarm.am3.toNat
  | .aAm4 => some s.bank.alarm.am4.toNat
  | .aDydt => some s.bank.alarm.dydt.toNat
  | .aMode => some s.bank.alarm.mode.toNat
  | .aAmpm => some s.bank.alarm.ampm.toNat
  | .csCtl => some s.bank.cs.ctl.toNat
  | .csStat => some s.bank.cs.stat.toNat
  | .csCmask => some s.bank.cs.cmask.toNat
  | .csSmask => some s.bank.cs.smask.toNat
  | .temp => some s.bank.temp.toNat
  | .epoch => some s.bank.epoch.toNat

/-- The host is told `v`. -/
def deliver (v : Nat) (s : State) : State := { s with hostData := v }

/-- The host is told a free value of the register's width. -/
def deliverFree (r : BankReg) (s : State) : State :=
  advanceDraws 1 (deliver (Config.unspec r.width s.draws).toNat s)

/-- A host read: the register's value when idle, and `BUSY`'s at any time (R39); a free value of the register's width for any
other register while busy (R40) and for `CMD` at any time (R26). -/
def hostRead (r : BankReg) (s : State) : State :=
  if s.phase = .idle ∨ r = .busy then
    match regValue r s with
    | some v => deliver v s
    | none => deliverFree r s
  else deliverFree r s

/-- The host writes `c` to `CMD` (R26): while busy nothing happens (R40); a reserved code raises Illegal (R103, R243); a command's
`ISSUE` label runs. -/
def hostCommand (c : Byte) (s : State) : Result :=
  if s.phase = .idle then
    match decode c with
    | .command i => exec i s
    | .reserved _ => .next (raiseIllegal s)
  else .next s

/-- The label of the command in progress that takes the answer which has arrived (R14, R22). -/
def resume (s : State) : Result :=
  match decode s.cur with
  | .command i => exec i s
  | .reserved _ => .fault .lostCommand

/-- The transport answers (R64, R65, R69): the transaction is carried out and the waiting label runs. -/
def takeAnswer (st : Status) (s : State) : Result :=
  match s.bus with
  | .pending r => resume (transport st r s)
  | .quiet => .fault .unsolicitedAnswer
  | .answered _ _ => .fault .unsolicitedAnswer

/-- The environment changes a peripheral register (R75). -/
def changeReg (a : Fin Config.nreg) (v : Byte) (s : State) : State := { s with mem := s.mem.write a v }

/-- What one entry of the schedule does (R6, R7). -/
def handle (x : Input) (s : State) : Result :=
  match x with
  | .cmd c => hostCommand c s
  | .wrByte r v => .next (hostWrite (putByte r v) s)
  | .wrBit r v => .next (hostWrite (putBit r v) s)
  | .rd r => .next (hostRead r s)
  | .regChange a v => .next (changeReg a v s)
  | .answer st => takeAnswer st s

/-- `LD_TIME s, m, h, mode, ampm` (R106). -/
def ldTime (t : Time) : List Input :=
  [.wrByte .tSec t.sec, .wrByte .tMin t.min, .wrByte .tHr t.hr, .wrBit .tMode t.mode, .wrBit .tAmpm t.ampm]

/-- `LD_CAL day, date, month, year` (R106). -/
def ldCal (c : Calendar) : List Input :=
  [.wrByte .cDay c.day, .wrByte .cDate c.date, .wrByte .cMonth c.month, .wrByte .cYear c.year]

end Sys2Proof.Machine
end

