-- ==== Sys2Proof/Machine/Step.lean ====
section
/-! DEFINITION. One step (spec/00_scope.md R6): the oldest entry of the schedule is taken and done. -/

namespace Sys2Proof.Machine

/-- One step. With an empty schedule nothing happens: an idle host, or an environment that does not answer (R69). -/
def step (s : State) : Host.Outcome State Fault Refusal :=
  match s.inputs with
  | [] => .next s
  | x :: rest => handle x { s with inputs := rest }

/-- `s` with the table word's command as the next thing the host writes to `CMD`, the block idle. Log 1. -/
def State.withFetchWord (s : State) (nbits w : Nat) : State := presentCommand (tableByte nbits w) s

end Sys2Proof.Machine
end

