-- ==== Sys2Proof/Machine/SimRF.lean ====
section
/-! DEFINITION. The reference environments of spec/20_memory.md R80 as schedules: `SimRF` answers every request with status 0 and
never changes a register of its own; `SimRF_fail(k, s)` answers its `k`-th request with `s`. Test environments, no claim about the chip. -/

namespace Sys2Proof.Machine

/-- `SimRF`: the status of the `j`-th request, counting from 1. -/
def simRF (_ : Nat) : Status := 0

/-- `SimRF_fail(k, s)`: the status of the `j`-th request, counting from 1. -/
def simRFFail (k : Nat) (st : Status) (j : Nat) : Status := if j = k then st else 0

/-- The answers a command takes when its first request is the environment's `j`-th: none for a pure command, a second one for
`RMW_CS` and `GET_EPOCH` after a successful first (R105, R186, R221). -/
def answersOf (env : Nat → Status) (j : Nat) : Instr → List Status
  | .tobcd | .frombcd => []
  | .rmwCs | .getEpoch => if succeeded (env j) then [env j, env (j + 1)] else [env j]
  | .setTime | .getTime | .setCal | .getCal | .setAlarm1 | .getAlarm1 | .setAlarm2 | .getAlarm2 | .setCs | .getCs | .getTemp => [env j]

/-- The schedule of a host that issues these commands, each after the one before has finished, against `env`. -/
def servedBy (env : Nat → Status) (j : Nat) : List Instr → List Input
  | [] => []
  | i :: rest =>
    .cmd (encode i) :: (answersOf env j i).map .answer ++ servedBy env (j + (answersOf env j i).length) rest

end Sys2Proof.Machine
end

