-- ==== Sys2Proof/Safety.lean ====
section
/-! DEFINITION. What counts as a coherent state and the terms the statements use: the request table of spec/20_memory.md R62, the
invariant, and what the end of a command leaves (spec/10_state.md R22 to R28). -/

namespace Sys2Proof.Safety

open Sys2Proof.Machine

/-- The direction of a request. -/
inductive Dir where
  | read
  | write
  deriving DecidableEq, Repr

/-- Direction, start register and length of a request. -/
structure Shape where
  dir : Dir
  start : Byte
  len : Nat
  deriving DecidableEq, Repr

/-- The shape of a request. -/
def shapeOf : Request → Shape
  | .read _ a n => { dir := .read, start := a, len := n }
  | .write _ a w => { dir := .write, start := a, len := w.length }

/-- The first request of each command (R62, R105); the pure commands make none. -/
def firstRequest : Instr → Option Shape
  | .tobcd | .frombcd => none
  | .setTime => some { dir := .write, start := 0x00, len := 3 }
  | .getTime => some { dir := .read, start := 0x00, len := 3 }
  | .setCal => some { dir := .write, start := 0x03, len := 4 }
  | .getCal => some { dir := .read, start := 0x03, len := 4 }
  | .setAlarm1 => some { dir := .write, start := 0x07, len := 4 }
  | .getAlarm1 => some { dir := .read, start := 0x07, len := 4 }
  | .setAlarm2 => some { dir := .write, start := 0x0B, len := 3 }
  | .getAlarm2 => some { dir := .read, start := 0x0B, len := 3 }
  | .setCs => some { dir := .write, start := 0x0E, len := 2 }
  | .getCs => some { dir := .read, start := 0x0E, len := 2 }
  | .rmwCs => some { dir := .read, start := 0x0E, len := 2 }
  | .getTemp => some { dir := .read, start := 0x11, len := 2 }
  | .getEpoch => some { dir := .read, start := 0x00, len := 3 }

/-- The second request of the two commands that make one (R62, R186, R221). -/
def secondRequest : Instr → Option Shape
  | .rmwCs => some { dir := .write, start := 0x0E, len := 2 }
  | .getEpoch => some { dir := .read, start := 0x03, len := 4 }
  | .tobcd | .frombcd | .setTime | .getTime | .setCal | .getCal | .setAlarm1 | .getAlarm1 | .setAlarm2 | .getAlarm2
  | .setCs | .getCs | .getTemp => none

/-- The request that a command has in flight in a phase (R22). -/
def requestIn (p : Phase) (i : Instr) : Option Shape :=
  match p with
  | .idle => none
  | .wait1 => firstRequest i
  | .wait2 => secondRequest i

/-- The sequencer is coherent (R22, R66, R69): idle exactly with no request outstanding; waiting exactly with the request that the
command in `cur` makes in this phase, sent to the block's device address. -/
def coherent (s : State) : Bool :=
  match s.phase, s.bus with
  | .idle, .quiet => true
  | .wait1, .pending r | .wait2, .pending r =>
    match decode s.cur with
    | .command i => requestIn s.phase i = some (shapeOf r) ∧ r.dev = s.devAddr
    | .reserved _ => false
  | _, _ => false

/-- The invariant of the machine: the fixed device address (R25), memory in canonical form over the 19 registers (R61), a coherent
sequencer. -/
abbrev Inv (s : State) : Prop := s.devAddr = Config.devAddr ∧ s.mem.wf ∧ coherent s = true

/-- `t` is `s` after the last label of a bus command with status `st` and bank `b`: idle, no request outstanding, everything else but
the hidden bytes `cur`, `lat`, `rbuf` (R22, R24) and the free values' counter as it was. -/
def Finished (s t : State) (st : Status) (b : Bank) : Prop :=
  t.phase = .idle ∧ t.bus = .quiet ∧ t.status = st ∧ t.ill = s.ill ∧ t.bank = b ∧ t.mem = s.mem ∧
    t.devAddr = s.devAddr ∧ t.hostData = s.hostData ∧ t.inputs = s.inputs

/-- A peripheral register outside the block of `len` registers at `start`. -/
def Outside (start len a : Nat) : Prop := a < start ∨ start + len ≤ a

/-- The parts of a state that the host or the environment can ever see: all but `cur`, `lat` and `rbuf` (R24). -/
def visible (s : State) : State :=
  { s with cur := 0, lat := { b0 := 0, b1 := 0, b2 := 0, b3 := 0 }, rbuf := { b0 := 0, b1 := 0, b2 := 0 } }

/-- The next state, if the outcome is one. -/
def nextOf : Host.Outcome State Fault Refusal → Option State
  | .next t => some t
  | .fault _ => none
  | .refused _ => none

/-- `k` steps of the machine. -/
def steps (k : Nat) (s : State) : Host.Outcome State Fault Refusal := Sys2Proof.core.run k s

/-- A row of the bank table: a register that a host can read, its width in bits, and what it holds as an unsigned number. -/
abbrev BankRow := BankReg × Nat × Nat

/-- The rows of the time group (R30). -/
def timeRows (t : Time) : List BankRow :=
  [(.tSec, 8, t.sec.toNat), (.tMin, 8, t.min.toNat), (.tHr, 8, t.hr.toNat), (.tMode, 1, t.mode.toNat), (.tAmpm, 1, t.ampm.toNat)]

/-- The rows of the calendar group (R31). -/
def calRows (c : Calendar) : List BankRow :=
  [(.cDay, 8, c.day.toNat), (.cDate, 8, c.date.toNat), (.cMonth, 8, c.month.toNat), (.cYear, 8, c.year.toNat)]

/-- The rows of the alarm group (R32). -/
def alarmRows (a : Alarm) : List BankRow :=
  [(.aSec, 8, a.sec.toNat), (.aMin, 8, a.min.toNat), (.aHr, 8, a.hr.toNat), (.aDay, 8, a.day.toNat), (.aDate, 8, a.date.toNat),
    (.aAm1, 1, a.am1.toNat), (.aAm2, 1, a.am2.toNat), (.aAm3, 1, a.am3.toNat), (.aAm4, 1, a.am4.toNat),
    (.aDydt, 1, a.dydt.toNat), (.aMode, 1, a.mode.toNat), (.aAmpm, 1, a.ampm.toNat)]

/-- The rows of the control/status group (R33). -/
def csRows (c : ControlStatus) : List BankRow :=
  [(.csCtl, 8, c.ctl.toNat), (.csStat, 8, c.stat.toNat), (.csCmask, 8, c.cmask.toNat), (.csSmask, 8, c.smask.toNat)]

/-- The rows of `BUSY`, `STATUS`, `ILL`, `BIN`, `BOUT`, `TEMP` and `EPOCH` (R23, R27 to R29, R34, R35). -/
def singleRows (s : State) : List BankRow :=
  [(.busy, 1, if s.phase = .idle then 0 else 1), (.status, Config.statusW, s.status.toNat), (.ill, 1, s.ill.toNat),
    (.bin, 8, s.bank.bin.toNat), (.bout, 8, s.bank.bout.toNat), (.temp, 16, s.bank.temp.toNat), (.epoch, 64, s.bank.epoch.toNat)]

/-- The bank table (R36): every register that a host can read. -/
def bankTable (s : State) : List BankRow :=
  singleRows s ++ timeRows s.bank.time ++ calRows s.bank.cal ++ alarmRows s.bank.alarm ++ csRows s.bank.cs

/-- What a command of one write does (R180), label by label and as a whole: its code; `ISSUE` emits the write of `bytes` at `start`;
`RESP1` ends the command with the transport's status and the bank as it was; and the two steps from issue to answer leave the bytes in
their registers when the status is 0, and every register outside the block as it was whatever the status: the effect that the rules give
with status 0, in the environment of R80 (log 20, log 21). -/
def IsWriteCommand (i : Instr) (code start : Byte) (bytes : Bank → List Byte) : Prop :=
  decode code = .command i ∧
  (∀ s : State, s.phase = .idle →
    exec i s = .next
      { s with ill := 0, cur := code, bus := .pending (.write s.devAddr start (bytes s.bank)), phase := .wait1 }) ∧
  (∀ (s : State) (st : Status) (d : List Byte), s.phase = .wait1 → s.bus = .answered st d →
    ∃ t, exec i s = .next t ∧ Finished s t st s.bank) ∧
  (∀ (s : State) (st : Status) (rest : List Input), s.phase = .idle → s.devAddr = Config.devAddr →
    s.inputs = .cmd code :: .answer st :: rest →
    ∃ t, steps 2 s = .next t ∧ t.phase = .idle ∧ t.status = st ∧ t.ill = 0 ∧ t.bank = s.bank ∧ t.inputs = rest ∧
      (st = 0 → t.mem.readBurst start.toNat (bytes s.bank).length = bytes s.bank) ∧
      ∀ a, Outside start.toNat (bytes s.bank).length a → t.mem.read a = s.mem.read a)

/-- What a command of one read does (R200), label by label and as a whole: its code; `ISSUE` emits the read of `len` registers at
`start`; `RESP1` with status 0 ends the command with a bank that `ok` relates to the bytes and the old bank, with another status with
a bank that `lost` relates to the old one; and the two steps from issue to answer read the registers and change none, a side effect of
reading (R73) being a register change in the schedule (log 2). -/
def IsReadCommand (i : Instr) (code start : Byte) (len : Nat) (ok : List Byte → Bank → Bank → Prop) (lost : Bank → Bank → Prop) :
    Prop :=
  decode code = .command i ∧
  (∀ s : State, s.phase = .idle →
    exec i s = .next { s with ill := 0, cur := code, bus := .pending (.read s.devAddr start len), phase := .wait1 }) ∧
  (∀ (s : State) (d : List Byte), s.phase = .wait1 → s.bus = .answered 0 d → d.length = len →
    ∃ t b, exec i s = .next t ∧ ok d s.bank b ∧ Finished s t 0 b) ∧
  (∀ (s : State) (st : Status) (d : List Byte), s.phase = .wait1 → s.bus = .answered st d → st ≠ 0 →
    ∃ t b, exec i s = .next t ∧ lost s.bank b ∧ Finished s t st b) ∧
  (∀ (s : State) (st : Status) (rest : List Input), s.phase = .idle → s.devAddr = Config.devAddr →
    s.inputs = .cmd code :: .answer st :: rest →
    ∃ t, steps 2 s = .next t ∧ t.phase = .idle ∧ t.status = st ∧ t.ill = 0 ∧ t.inputs = rest ∧
      (st = 0 → ok (s.mem.readBurst start.toNat len) s.bank t.bank) ∧ (st ≠ 0 → lost s.bank t.bank) ∧
      ∀ a, t.mem.read a = s.mem.read a)

/-- The bank register that a writable 8-bit register is (R36). -/
def byteRegName : ByteReg → BankReg
  | .bin => .bin
  | .tSec => .tSec
  | .tMin => .tMin
  | .tHr => .tHr
  | .cDay => .cDay
  | .cDate => .cDate
  | .cMonth => .cMonth
  | .cYear => .cYear
  | .aSec => .aSec
  | .aMin => .aMin
  | .aHr => .aHr
  | .aDay => .aDay
  | .aDate => .aDate
  | .csCtl => .csCtl
  | .csStat => .csStat
  | .csCmask => .csCmask
  | .csSmask => .csSmask

/-- The bank register that a writable 1-bit register is (R36). -/
def bitRegName : BitReg → BankReg
  | .tMode => .tMode
  | .tAmpm => .tAmpm
  | .aAm1 => .aAm1
  | .aAm2 => .aAm2
  | .aAm3 => .aAm3
  | .aAm4 => .aAm4
  | .aDydt => .aDydt
  | .aMode => .aMode
  | .aAmpm => .aAmpm

/-- The days of a 365-day year before the first of each month (R225, `cum[1..12]`). -/
def daysBefore : List Int := [0, 31, 59, 90, 120, 151, 181, 212, 243, 273, 304, 334]

/-- Field values on which the time block survives encoding and decoding (R170). -/
def TimeFits (t : Time) : Prop :=
  t.sec.toNat < 80 ∧ t.min.toNat < 80 ∧
    (t.mode = 1 ∧ t.hr.toNat < 20 ∨ t.mode = 0 ∧ t.hr.toNat < 40 ∧ t.ampm = 0)

/-- Field values on which the calendar block survives (R170). -/
def CalendarFits (c : Calendar) : Prop :=
  c.day.toNat < 160 ∧ c.date.toNat < 160 ∧ c.month.toNat < 160 ∧ c.year.toNat < 160

/-- Field values on which an alarm's fields survive (R170), the seconds apart: Alarm 2 has none. -/
def AlarmFits (a : Alarm) : Prop :=
  a.min.toNat < 80 ∧
    (a.mode = 1 ∧ a.hr.toNat < 20 ∨ a.mode = 0 ∧ a.hr.toNat < 40 ∧ a.ampm = 0) ∧
    (if a.dydt = 1 then a.day.toNat < 40 else a.date.toNat < 40)

/-- The environment's register changes, one after another. -/
def changes (cs : List (Fin Config.nreg × Byte)) : List Input := cs.map fun c => .regChange c.1 c.2

/-- The peripheral's registers after those changes. -/
def memAfter (cs : List (Fin Config.nreg × Byte)) (m : Memory) : Memory := cs.foldl (fun m c => m.write c.1 c.2) m

end Sys2Proof.Safety
end

