-- ==== Sys2Proof/Certificates/Slice0/Obligations.lean ====
section
/-! DEFINITION. The statements for the provers. A number O<n> is the entry of OBLIGATIONS.json. Where a statement rests on a choice that
is not the source's, its docstring names the decision of spec/92_eei_decisions.md or the log entry. -/

open Sys2Proof Sys2Proof.Machine Sys2Proof.Safety

/-! Encoding -/

/-- O1. Decoding a byte gives a command exactly when the block has the command and the byte is its code, for every choice of the
options and all 256 bytes (R101, R103, R104; the codes are the spec's D1). -/
def Obligations.DecodeAndEncodeAgree : Prop :=
  ∀ (o : Options) (i : Instr) (c : Byte), decodeWith o c = .command i ↔ WellFormed o i ∧ encode i = c

/-- O2. Words of R101 written out, and the reserved ones of R103, the options' among them (the spec's D1, D4). -/
def Obligations.OpcodeMapWords : Prop :=
  decode 0b00000001 = .command .tobcd ∧ decode 0b00000010 = .command .frombcd ∧
  decode 0b00010000 = .command .setTime ∧ decode 0b00010011 = .command .getCal ∧
  decode 0b00010101 = .command .getAlarm1 ∧ decode 0b00010110 = .command .setAlarm2 ∧
  decode 0b00011010 = .command .rmwCs ∧ decode 0b00011011 = .command .getTemp ∧
  decode 0b00011101 = .command .getEpoch ∧
  decode 0b00000000 = .reserved .pureGroup ∧ decode 0b00011100 = .reserved .busGroup ∧
  decode 0b00110000 = .reserved .highBits ∧
  (∀ b, decodeWith { hasEpoch := false, hasRmwCs := b } 0b00011101 = .reserved .noEpoch) ∧
  ∀ b, decodeWith { hasEpoch := b, hasRmwCs := false } 0b00011010 = .reserved .noRmwCs

/-! The whole machine -/

/-- O3. Every step from a state that meets the invariant leads to one that does: the device address is 0x68, the peripheral's registers
are in canonical form, and the sequencer is coherent, its outstanding request one that the command in progress makes. -/
def Obligations.StepKeepsInvariant : Prop :=
  ∀ s t : State, Inv s → step s = .next t → Inv t

/-- O4. The state after reset meets the invariant. -/
def Obligations.InvariantAtReset : Prop := Inv State.reset

/-- O5. Reset (R43; the spec's D24): the values R43 gives. The zeros where R43 says `UNSPEC` are the model's choice (log 4, log 6)
and are not stated. -/
def Obligations.ResetState : Prop :=
  State.reset.devAddr = 0x68 ∧ State.reset.phase = .idle ∧ busy State.reset = 0 ∧ State.reset.status = 0 ∧
  State.reset.ill = 0 ∧ State.reset.bus = .quiet

/-- O6. When the host writes a command's code to `CMD` and the block is idle, the step is that command's meaning (R6, R14, R26; the
spec's D1, D3); the presented table word is such a write (log 1). -/
def Obligations.StepRunsTheIssuedCommand : Prop :=
  (∀ (s : State) (i : Instr) (rest : List Input), WellFormed Config.options i → s.phase = .idle →
    s.inputs = .cmd (encode i) :: rest → step s = exec i { s with inputs := rest }) ∧
  ∀ (s : State) (i : Instr), WellFormed Config.options i →
    step (s.withFetchWord 8 (encode i).toNat) = exec i { s with phase := .idle, bus := .quiet }

/-- O7. Any byte outside the 15 codes, written to `CMD` while idle, sets `ILL` and changes nothing else (R103, R243; the spec's D4). -/
def Obligations.ReservedCodeRaisesIllegal : Prop :=
  ∀ (s : State) (c : Byte) (rest : List Input), s.phase = .idle → s.inputs = .cmd c :: rest →
    c ∉ ([0x01, 0x02, 0x10, 0x11, 0x12, 0x13, 0x14, 0x15, 0x16, 0x17, 0x18, 0x19, 0x1A, 0x1B, 0x1D] : List Byte) →
    step s = .next { s with inputs := rest, ill := 1 }

/-- O8. While busy, host writes to `CMD` and to the bank have no effect of any kind (R26, R40; the spec's D3, D25). -/
def Obligations.BusyIgnoresHostWrites : Prop :=
  ∀ (s : State) (x : Input) (rest : List Input), s.phase ≠ .idle → s.inputs = x :: rest →
    ((∃ c, x = .cmd c) ∨ (∃ r v, x = .wrByte r v) ∨ ∃ r v, x = .wrBit r v) →
    step s = .next { s with inputs := rest }

/-- O9. While a request is unanswered the block has no step of its own (R69): with nothing scheduled the machine stays as it is (log 1),
and whatever the host or the environment does but an answer, the step succeeds and the block's side is unchanged. That a busy
block drops the host's writes to `CMD` and the bank is the spec's D3, D25 (log 26). -/
def Obligations.BusyWaitsForItsAnswer : Prop :=
  ∀ s : State, s.phase ≠ .idle →
    (s.inputs = [] → step s = .next s) ∧
    ∀ (x : Input) (rest : List Input), s.inputs = x :: rest → (∀ st, x ≠ .answer st) →
      ∃ t, step s = .next t ∧ t.phase = s.phase ∧ t.bus = s.bus ∧ t.cur = s.cur ∧ t.lat = s.lat ∧ t.rbuf = s.rbuf ∧
        t.status = s.status ∧ t.ill = s.ill ∧ t.bank = s.bank

/-- O10. An answer carries the outstanding request out and runs the waiting label of the command in `cur` (R6, R14, R22; the spec's
D3; log 21). -/
def Obligations.AnswerRunsTheWaitingLabel : Prop :=
  ∀ (s : State) (r : Request) (i : Instr) (st : Status) (rest : List Input), s.bus = .pending r → decode s.cur = .command i →
    s.inputs = .answer st :: rest → step s = exec i (transport st r { s with inputs := rest })

/-- O11. An answer that nothing asked for stops the model (log 11). -/
def Obligations.AnswerWithoutRequestStops : Prop :=
  ∀ (s : State) (st : Status) (rest : List Input), (∀ r, s.bus ≠ .pending r) → s.inputs = .answer st :: rest →
    step s = .fault .unsolicitedAnswer

/-- O12. The read contract (R65): inside the map a read with status 0 delivers, in ascending order, the byte of each register from
the start address, a failed one as many bytes, of which nothing is stated. That a read changes no register is the model's: a side effect
of reading (R73) is a register change in the schedule (log 2), a failed read's bytes are free (log 28). -/
def Obligations.ReadTransactionDelivers : Prop :=
  ∀ (s : State) (dev : BitVec 7) (start : Byte) (n : Nat) (st : Status), (Request.read dev start n).inMap = true →
    (transport st (.read dev start n) s).mem = s.mem ∧
    ∃ d, (transport st (.read dev start n) s).bus = .answered st d ∧ d.length = n ∧
      (st = 0 → ∀ k < n, d[k]? = some (s.mem.read (start.toNat + k)))

/-- O13. The write contract (R64, R68, R80; the spec's D14, D20, D26: log 19, log 20): inside the map the answer has the given status;
status 0 stores each byte in its register; registers outside the block keep their values whatever the status. Outside the map the
answer is status 1 and nothing changes. -/
def Obligations.WriteTransactionStores : Prop :=
  ∀ (s : State) (dev : BitVec 7) (start : Byte) (w : List Byte) (st : Status),
    ((Request.write dev start w).inMap = true →
      (transport st (.write dev start w) s).bus = .answered st [] ∧
      (st = 0 → ∀ (k : Nat) (h : k < w.length), (transport st (.write dev start w) s).mem.read (start.toNat + k) = w[k]) ∧
      ∀ a, Outside start.toNat w.length a → (transport st (.write dev start w) s).mem.read a = s.mem.read a) ∧
    ((Request.write dev start w).inMap = false → transport st (.write dev start w) s = { s with bus := .answered 1 [] })

/-- O14. The environment may change any peripheral register between two events of the block (R75): that register and nothing else. -/
def Obligations.EnvironmentChangesOneRegister : Prop :=
  ∀ (s : State) (a : Fin Config.nreg) (v : Byte) (rest : List Input), s.inputs = .regChange a v :: rest →
    ∃ m, step s = .next { s with inputs := rest, mem := m } ∧ m.read a = v ∧ ∀ x, x ≠ a.val → m.read x = s.mem.read x

/-- O15. A host read (R26, R39, R40; the spec's D1, D3): idle, any register but `CMD` gives what it holds; `BUSY` does so at any time;
every other read gives some value of the register's width. Nothing else changes but the free values' counter. Every register has
the width and holds the field that the bank table (R23, R27 to R36) gives it, the read-only `STATUS`, `ILL`, `BOUT`, `TEMP` and `EPOCH`
among them; `CMD` holds nothing to read. The result is told as an unsigned number (log 9). -/
def Obligations.HostReadsARegister : Prop :=
  (∀ (s : State) (r : BankReg) (w v : Nat), (r, w, v) ∈ bankTable s → r.width = w ∧ regValue r s = some v) ∧
  (∀ (s : State) (r : BankReg), r ≠ .cmd → ∃ w v, (r, w, v) ∈ bankTable s) ∧
  (∀ s : State, BankReg.cmd.width = 8 ∧ regValue .cmd s = none) ∧
  ∀ (s : State) (r : BankReg) (rest : List Input), s.inputs = .rd r :: rest →
    (s.phase = .idle → r ≠ .cmd → ∃ v, regValue r s = some v ∧ step s = .next { s with inputs := rest, hostData := v }) ∧
    (r = .busy → step s = .next { s with inputs := rest, hostData := if s.phase = .idle then 0 else 1 }) ∧
    (s.phase ≠ .idle ∧ r ≠ .busy ∨ r = .cmd →
      ∃ x : BitVec r.width, step s = .next { s with inputs := rest, hostData := x.toNat, draws := s.draws + 1 })

/-- O16. A host write while idle (R39; the spec's D2, D3) takes effect at once: the register written holds the value, every other
register, the read-only ones among them, what it held, and nothing else of the state changes but the bank. What `regValue` names is
the field that O15 ties to each register. -/
def Obligations.HostWritesOneRegister : Prop :=
  (∀ (s : State) (r : ByteReg) (v : Byte) (rest : List Input), s.phase = .idle → s.inputs = .wrByte r v :: rest →
    ∃ b, step s = .next { s with inputs := rest, bank := b } ∧
      regValue (byteRegName r) { s with bank := b } = some v.toNat ∧
      ∀ q, q ≠ byteRegName r → regValue q { s with bank := b } = regValue q s) ∧
  ∀ (s : State) (r : BitReg) (v : Bit) (rest : List Input), s.phase = .idle → s.inputs = .wrBit r v :: rest →
    ∃ b, step s = .next { s with inputs := rest, bank := b } ∧
      regValue (bitRegName r) { s with bank := b } = some v.toNat ∧
      ∀ q, q ≠ bitRegName r → regValue q { s with bank := b } = regValue q s

/-! The codec -/

/-- O17. `TOBCD` (R142): `BOUT` gets the tens digit times 16 plus the units digit, cut to 8 bits (the cut, for 100 and above, is the
spec's D5); `ILL` is cleared, and nothing else changes, `STATUS` not (the spec's D28). -/
def Obligations.ToBcdCommand : Prop :=
  ∀ s : State, s.phase = .idle →
    exec .tobcd s = .next
      { s with
        ill := 0
        bank := { s.bank with bout := BitVec.ofNat 8 (s.bank.bin.toNat / 10 * 16 + s.bank.bin.toNat % 10) } }

/-- O18. `FROMBCD` (R143): `BOUT` gets ten times the high nibble plus the low one; `ILL` is cleared, and nothing else changes, `STATUS`
not (the spec's D28). -/
def Obligations.FromBcdCommand : Prop :=
  ∀ s : State, s.phase = .idle →
    exec .frombcd s = .next
      { s with
        ill := 0
        bank := { s.bank with bout := BitVec.ofNat 8 (s.bank.bin.toNat / 16 * 10 + s.bank.bin.toNat % 16) } }

/-- O19. `from_bcd` (R141): the formula on every byte, at most 165. -/
def Obligations.FromBcdFormula : Prop :=
  ∀ b : Byte, (fromBcd b).toNat = b.toNat / 16 * 10 + b.toNat % 16 ∧ (fromBcd b).toNat ≤ 165

/-- O20. The codec's round trips (R145): decoding an encoded value gives it back below 160 and 160 less from there (the spec's D5
above 99); encoding a decoded byte gives it back exactly when its low nibble is a digit. -/
def Obligations.CodecRoundTrips : Prop :=
  (∀ v : Byte, v.toNat < 160 → fromBcd (toBcd v) = v) ∧
  (∀ v : Byte, 160 ≤ v.toNat → (fromBcd (toBcd v)).toNat = v.toNat - 160) ∧
  ∀ b : Byte, toBcd (fromBcd b) = b ↔ b.toNat % 16 ≤ 9

/-! The write commands -/

/-- O21. `SET_TIME` (R181; the spec's D1, D3: log 26): one write of the time block at 0x00; AM/PM has no influence in 24-hour mode (the
spec's D9: log 13); the rule's example. That every register outside the block stays after a failed write too, and that the registers
hold the bytes as written from the answer on, are R68 and R80 (the spec's D20, D26: log 20) and the model's instant of a transaction
(log 21). -/
def Obligations.SetTimeCommand : Prop :=
  IsWriteCommand .setTime 0x10 0x00 (fun b => encTime b.time) ∧
  (∀ (t : Time) (f : Bit), t.mode = 0 → encTime { t with ampm := f } = encTime t) ∧
  ∀ f : Bit, encTime { sec := 58, min := 59, hr := 23, mode := 0, ampm := f } = [0x58, 0x59, 0x23]

/-- O22. `SET_CAL` (R182; the spec's D1, D3: log 26): one write of the calendar block at 0x03; the century bit is written 0 for months
1 to 12 (R156; the spec's D7: log 13); the example. That every register outside the block stays after a failed write too, and that the
registers hold the bytes as written from the answer on, are R68 and R80 (the spec's D20, D26: log 20) and the model's instant of a
transaction (log 21). -/
def Obligations.SetCalCommand : Prop :=
  IsWriteCommand .setCal 0x12 0x03 (fun b => encCal b.cal) ∧
  (∀ (c : Calendar), 1 ≤ c.month.toNat → c.month.toNat ≤ 12 → ∃ m, (encCal c)[2]? = some m ∧ m.toNat < 128) ∧
  encCal { day := 6, date := 29, month := 2, year := 24 } = [0x06, 0x29, 0x02, 0x24]

/-- O23. `SET_ALARM 1` (R183; the spec's D1, D3, D12: log 26, log 13): one write of the Alarm 1 block at 0x07; the unselected one of day
and date has no influence (the spec's D11), nor AM/PM in 24-hour mode (D9: log 13); the example. That every
register outside the block stays after a failed write too, and that the registers hold the bytes as written from the answer on, are
R68 and R80 (the spec's D20, D26: log 20) and the model's instant of a transaction (log 21). -/
def Obligations.SetAlarm1Command : Prop :=
  IsWriteCommand .setAlarm1 0x14 0x07 (fun b => encAlarm1 b.alarm) ∧
  (∀ (a : Alarm) (v : Byte), a.dydt = 1 → encAlarm1 { a with date := v } = encAlarm1 a) ∧
  (∀ (a : Alarm) (v : Byte), a.dydt = 0 → encAlarm1 { a with day := v } = encAlarm1 a) ∧
  (∀ (a : Alarm) (f : Bit), a.mode = 0 → encAlarm1 { a with ampm := f } = encAlarm1 a) ∧
  ∀ (v : Byte) (f : Bit), encAlarm1
    { sec := 0, min := 30, hr := 6, day := v, date := 1, am1 := 0, am2 := 0, am3 := 0, am4 := 1, dydt := 0, mode := 0, ampm := f } =
      [0x00, 0x30, 0x06, 0x81]

/-- O24. `SET_ALARM 2` (R184; the spec's D1, D3, D12: log 26, log 13): one write of the three Alarm 2 bytes at 0x0B, Alarm 1 untouched;
the seconds and am1 have no influence; the example. That every register outside the block stays after a failed write too, and that the
registers hold the bytes as written from the answer on, are R68 and R80 (the spec's D20, D26: log 20) and the model's instant of a
transaction (log 21). -/
def Obligations.SetAlarm2Command : Prop :=
  IsWriteCommand .setAlarm2 0x16 0x0B (fun b => encAlarm2 b.alarm) ∧
  (∀ (a : Alarm) (v : Byte) (f : Bit), encAlarm2 { a with sec := v, am1 := f } = encAlarm2 a) ∧
  (∀ a : Alarm, (encAlarm2 a).length = 3) ∧
  ∀ (x y : Byte) (f g : Bit), encAlarm2
    { sec := x, min := 0, hr := 0, day := y, date := 0, am1 := f, am2 := 1, am3 := 1, am4 := 1, dydt := 0, mode := 0, ampm := g } =
      [0x80, 0x80, 0x80]

/-- O25. `SET_CS` (R185): one write of the two raw bytes at 0x0E, no read first (the one burst is the spec's D16: log 15). That the
registers then hold the bytes as written, and that a failed write touches no other register, is of the reference environment (R80; the
spec's D26, D20: log 20), at the model's instant of a transaction (log 21): a chip whose status register stores otherwise is not
claimed about. -/
def Obligations.SetCsCommand : Prop :=
  IsWriteCommand .setCs 0x18 0x0E (fun b => [b.cs.ctl, b.cs.stat])

/-- O26. `RMW_CS` (R186; the spec's D17: log 16): the read of 0x0E, then the write of each byte merged under its sampled mask; a
failed read ends the command with its status and no write; the bank never changes. The last clause, the whole command with both answers
0, is of the reference environment, which stores a written byte as it is (R80; the spec's D26: log 20) at its answer (log 21), and
whose read changes no register (log 2). -/
def Obligations.RmwCsCommand : Prop :=
  decode 0x1A = .command .rmwCs ∧
  (∀ s : State, s.phase = .idle →
    exec .rmwCs s = .next
      { s with
        ill := 0, cur := 0x1A, bus := .pending (.read s.devAddr 0x0E 2), phase := .wait1
        lat := { b0 := s.bank.cs.ctl, b1 := s.bank.cs.stat, b2 := s.bank.cs.cmask, b3 := s.bank.cs.smask } }) ∧
  (∀ (s : State) (b0 b1 : Byte), s.phase = .wait1 → s.bus = .answered 0 [b0, b1] →
    exec .rmwCs s = .next
      { s with
        bus := .pending (.write s.devAddr 0x0E [merge b0 s.lat.b0 s.lat.b2, merge b1 s.lat.b1 s.lat.b3]), phase := .wait2 }) ∧
  (∀ (s : State) (st : Status) (d : List Byte), s.phase = .wait1 → s.bus = .answered st d → st ≠ 0 →
    ∃ t, exec .rmwCs s = .next t ∧ Finished s t st s.bank) ∧
  (∀ (s : State) (st : Status) (d : List Byte), s.phase = .wait2 → s.bus = .answered st d →
    ∃ t, exec .rmwCs s = .next t ∧ Finished s t st s.bank) ∧
  (∀ (s : State) (rest : List Input), s.phase = .idle → s.devAddr = Config.devAddr →
    s.inputs = .cmd 0x1A :: .answer 0 :: .answer 0 :: rest →
    ∃ t, steps 3 s = .next t ∧ t.phase = .idle ∧ t.status = 0 ∧ t.bank = s.bank ∧ t.inputs = rest ∧
      t.mem.read 0x0E = merge (s.mem.read 0x0E) s.bank.cs.ctl s.bank.cs.cmask ∧
      t.mem.read 0x0F = merge (s.mem.read 0x0F) s.bank.cs.stat s.bank.cs.smask ∧
      ∀ a, Outside 0x0E 2 a → t.mem.read a = s.mem.read a)

/-! The read commands -/

/-- O27. `GET_TIME` (R201; the spec's D1, D3, D20: log 26, log 7): one read of the time block at 0x00, decoded into the time group; on
failure the five registers hold whatever, and no other bank register changes; bit 7 of each byte is ignored (for the hours the spec's
D8: log 13), AM/PM is 0 in 24-hour mode (D9: log 13); nibbles above 9 decode by the formula (bytes 0x7F, 0x6A, 0x3F); the example. That
the command changes no peripheral register is the model's choice: a side effect of reading (R73) is a register change in the schedule
(log 2). -/
def Obligations.GetTimeCommand : Prop :=
  IsReadCommand .getTime 0x11 0x00 3
    (fun d old new => ∃ v, decTime d = some v ∧ new = { old with time := v })
    (fun old new => ∃ v, new = { old with time := v }) ∧
  (∀ b0 b1 b2 : Byte, decTime [b0, b1, b2] = decTime [b0 &&& 0x7F, b1 &&& 0x7F, b2 &&& 0x7F]) ∧
  (∀ (d : List Byte) (v : Time), decTime d = some v → v.mode = 0 → v.ampm = 0) ∧
  decTime [0x7F, 0x6A, 0x3F] = some { sec := 85, min := 70, hr := 45, mode := 0, ampm := 0 } ∧
  decTime [0x58, 0x59, 0x23] = some { sec := 58, min := 59, hr := 23, mode := 0, ampm := 0 }

/-- O28. `GET_CAL` (R202; the spec's D1, D3, D20: log 26, log 7): one read of the calendar block at 0x03, decoded into the calendar
group; on failure the four registers hold whatever; a set century bit adds 80 to a month from 1 to 12 (the spec's D7: log 13); the
example. That the command changes no peripheral register is the model's choice: a side effect of reading (R73) is a register change in
the schedule (log 2). -/
def Obligations.GetCalCommand : Prop :=
  IsReadCommand .getCal 0x13 0x03 4
    (fun d old new => ∃ v, decCal d = some v ∧ new = { old with cal := v })
    (fun old new => ∃ v, new = { old with cal := v }) ∧
  (∀ m : Byte, 1 ≤ m.toNat → m.toNat ≤ 12 → (fromBcd (toBcd m ||| 0x80)).toNat = m.toNat + 80) ∧
  decCal [0x06, 0x29, 0x02, 0x24] = some { day := 6, date := 29, month := 2, year := 24 }

/-- O29. `GET_ALARM 1` (R203; the spec's D1, D3, D12, D20: log 26, log 13, log 7): one read of the Alarm 1 block at 0x07, decoded into
the alarm group, the unselected one of day and date some value (the spec's D11: log 13); on failure the twelve registers hold whatever;
the example. That the command changes no peripheral register is the model's choice: a side effect of reading (R73) is a register change
in the schedule (log 2). -/
def Obligations.GetAlarm1Command : Prop :=
  IsReadCommand .getAlarm1 0x15 0x07 4
    (fun d old new => ∃ u v, decAlarm1 u d = some v ∧ new = { old with alarm := v })
    (fun old new => ∃ v, new = { old with alarm := v }) ∧
  (∀ (u : Byte) (d : List Byte) (v : Alarm), decAlarm1 u d = some v → (v.dydt = 1 → v.date = u) ∧ (v.dydt = 0 → v.day = u)) ∧
  ∀ u : Byte, decAlarm1 u [0x00, 0x30, 0x06, 0x81] = some
    { sec := 0, min := 30, hr := 6, day := u, date := 1, am1 := 0, am2 := 0, am3 := 0, am4 := 1, dydt := 0, mode := 0, ampm := 0 }

/-- O30. `GET_ALARM 2` (R204; the spec's D1, D3, D12, D20: log 26, log 13, log 7): one read of the Alarm 2 block at 0x0B, decoded into
the alarm group; the seconds, am1 and the unselected one of day and date (the spec's D11: log 13) are some values; on failure the
twelve registers hold whatever; the example. That the command changes no peripheral register is the model's choice: a side effect of
reading (R73) is a register change in the schedule (log 2). -/
def Obligations.GetAlarm2Command : Prop :=
  IsReadCommand .getAlarm2 0x17 0x0B 3
    (fun d old new => ∃ u x f v, decAlarm2 u x f d = some v ∧ new = { old with alarm := v })
    (fun old new => ∃ v, new = { old with alarm := v }) ∧
  (∀ (u x : Byte) (f : Bit) (d : List Byte) (v : Alarm), decAlarm2 u x f d = some v →
    v.sec = x ∧ v.am1 = f ∧ (v.dydt = 1 → v.date = u) ∧ (v.dydt = 0 → v.day = u)) ∧
  ∀ (u x : Byte) (f : Bit), decAlarm2 u x f [0x80, 0x80, 0x80] = some
    { sec := x, min := 0, hr := 0, day := u, date := 0, am1 := f, am2 := 1, am3 := 1, am4 := 1, dydt := 0, mode := 0, ampm := 0 }

/-- O31. `GET_CS` (R205): one read at 0x0E (the one burst is the spec's D16: log 15); the two bytes as they are, the masks untouched;
on failure the two registers hold whatever. That the command changes no peripheral register is the model's choice: a side effect of
reading (R73) is a register change in the schedule (log 2). -/
def Obligations.GetCsCommand : Prop :=
  IsReadCommand .getCs 0x19 0x0E 2
    (fun d old new => ∃ x y, d = [x, y] ∧ new = { old with cs := { old.cs with ctl := x, stat := y } })
    (fun old new => ∃ x y, new = { old with cs := { old.cs with ctl := x, stat := y } })

/-- O32. `GET_TEMP` (R206): one read at 0x11 (the one burst is the spec's D16, the status its D18: log 15, log 16); the 16 bits as they
are, the first byte high; on failure `TEMP` holds whatever. That the command changes no peripheral register is the model's choice: a
side effect of reading (R73) is a register change in the schedule (log 2). -/
def Obligations.GetTempCommand : Prop :=
  IsReadCommand .getTemp 0x1B 0x11 2
    (fun d old new => ∃ x y v, d = [x, y] ∧ v.toNat = x.toNat * 256 + y.toNat ∧ new = { old with temp := v })
    (fun old new => ∃ v, new = { old with temp := v })

/-- O33. `GET_EPOCH` (R221, R222, R224; the spec's D10, D18, D19, D21, D22, D23: log 14, log 16, log 25): the time block, then the
calendar block; a failed read ends the command with `EPOCH` holding whatever and, after a failed first, with no second read; after two
successes `EPOCH` is the count of seconds when the decoded month is 1 to 12 (the hour as it stands in 24-hour mode, modulo 12 plus 12
when PM in 12-hour mode) and holds whatever otherwise; the time and calendar groups and every other register stay; the whole command
with both answers 0. That the whole command changes no peripheral register is the model's choice: a side effect of reading (R73) is a
register change in the schedule (log 2). -/
def Obligations.GetEpochCommand : Prop :=
  decode 0x1D = .command .getEpoch ∧
  (∀ s : State, s.phase = .idle →
    exec .getEpoch s = .next
      { s with ill := 0, cur := 0x1D, bus := .pending (.read s.devAddr 0x00 3), phase := .wait1 }) ∧
  (∀ (s : State) (b0 b1 b2 : Byte), s.phase = .wait1 → s.bus = .answered 0 [b0, b1, b2] →
    exec .getEpoch s = .next
      { s with rbuf := { b0 := b0, b1 := b1, b2 := b2 }, bus := .pending (.read s.devAddr 0x03 4), phase := .wait2 }) ∧
  (∀ (s : State) (st : Status) (d : List Byte), (s.phase = .wait1 ∨ s.phase = .wait2) → s.bus = .answered st d → st ≠ 0 →
    ∃ t v, exec .getEpoch s = .next t ∧ Finished s t st { s.bank with epoch := v }) ∧
  (∀ (s : State) (e : List Byte), s.phase = .wait2 → s.bus = .answered 0 e → e.length = 4 →
    ∃ t v tm c, exec .getEpoch s = .next t ∧ Finished s t 0 { s.bank with epoch := v } ∧
      decTime [s.rbuf.b0, s.rbuf.b1, s.rbuf.b2] = some tm ∧ decCal e = some c ∧
      (1 ≤ c.month.toNat → c.month.toNat ≤ 12 →
        v.toInt = daysOf c.date c.month c.year * 86400
          + ((if tm.mode = 1 then tm.hr.toNat % 12 + (if tm.ampm = 1 then 12 else 0) else tm.hr.toNat : Nat) : Int) * 3600
          + tm.min.toNat * 60 + tm.sec.toNat)) ∧
  (∀ (s : State) (rest : List Input), s.phase = .idle → s.devAddr = Config.devAddr →
    s.inputs = .cmd 0x1D :: .answer 0 :: .answer 0 :: rest →
    ∃ t v tm c, steps 3 s = .next t ∧ t.phase = .idle ∧ t.status = 0 ∧ t.bank = { s.bank with epoch := v } ∧ t.inputs = rest ∧
      (∀ a, t.mem.read a = s.mem.read a) ∧
      decTime (s.mem.readBurst 0x00 3) = some tm ∧ decCal (s.mem.readBurst 0x03 4) = some c ∧
      (1 ≤ c.month.toNat → c.month.toNat ≤ 12 → v.toInt = epochSeconds tm c))

/-! The formats -/

/-- O34. The bytes of the time block (R108, R109, R154; the cut to the field is the spec's D6, the split of the hours D8: log 13). -/
def Obligations.EncodedTimeBytes : Prop :=
  ∀ t : Time, ∃ b0 b1 b2 : Byte, encTime t = [b0, b1, b2] ∧
    b0.toNat = (toBcd t.sec).toNat % 128 ∧ b1.toNat = (toBcd t.min).toNat % 128 ∧
    (t.mode = 1 → b2.toNat = 64 + 32 * t.ampm.toNat + (toBcd t.hr).toNat % 32) ∧
    (t.mode = 0 → b2.toNat = (toBcd t.hr).toNat % 64)

/-- O35. The fields of the time block (R151, R153, R155; the 24-hour AM/PM flag is the spec's D9: log 13). -/
def Obligations.DecodedTimeFields : Prop :=
  ∀ b0 b1 b2 : Byte, ∃ t, decTime [b0, b1, b2] = some t ∧
    t.sec.toNat = b0.toNat % 128 / 16 * 10 + b0.toNat % 16 ∧ t.min.toNat = b1.toNat % 128 / 16 * 10 + b1.toNat % 16 ∧
    t.mode.toNat = b2.toNat / 64 % 2 ∧
    (t.mode = 1 → t.ampm.toNat = b2.toNat / 32 % 2 ∧ t.hr.toNat = b2.toNat % 32 / 16 * 10 + b2.toNat % 16) ∧
    (t.mode = 0 → t.ampm = 0 ∧ t.hr.toNat = b2.toNat % 64 / 16 * 10 + b2.toNat % 16)

/-- O36. The bytes of both alarm blocks (R111 to R113, R158 to R164; the spec's D6, D8, D11: log 13). -/
def Obligations.EncodedAlarmBytes : Prop :=
  ∀ a : Alarm, ∃ b0 b1 b2 b3 : Byte, encAlarm1 a = [b0, b1, b2, b3] ∧ encAlarm2 a = [b1, b2, b3] ∧
    b0.toNat = 128 * a.am1.toNat + (toBcd a.sec).toNat % 128 ∧ b1.toNat = 128 * a.am2.toNat + (toBcd a.min).toNat % 128 ∧
    (a.mode = 1 → b2.toNat = 128 * a.am3.toNat + 64 + 32 * a.ampm.toNat + (toBcd a.hr).toNat % 32) ∧
    (a.mode = 0 → b2.toNat = 128 * a.am3.toNat + (toBcd a.hr).toNat % 64) ∧
    b3.toNat = 128 * a.am4.toNat + 64 * a.dydt.toNat + (toBcd (if a.dydt = 1 then a.day else a.date)).toNat % 64

/-- O37. The fields of both alarm blocks (R158, R159, R161, R163, R165; the spec's D9, D11: log 13), for every free value. -/
def Obligations.DecodedAlarmFields : Prop :=
  ∀ (u x : Byte) (f : Bit) (b0 b1 b2 b3 : Byte), ∃ a, decAlarm1 u [b0, b1, b2, b3] = some a ∧
    decAlarm2 u x f [b1, b2, b3] = some { a with sec := x, am1 := f } ∧
    a.am1.toNat = b0.toNat / 128 ∧ a.sec.toNat = b0.toNat % 128 / 16 * 10 + b0.toNat % 16 ∧
    a.am2.toNat = b1.toNat / 128 ∧ a.min.toNat = b1.toNat % 128 / 16 * 10 + b1.toNat % 16 ∧
    a.am3.toNat = b2.toNat / 128 ∧ a.mode.toNat = b2.toNat / 64 % 2 ∧
    (a.mode = 1 → a.ampm.toNat = b2.toNat / 32 % 2 ∧ a.hr.toNat = b2.toNat % 32 / 16 * 10 + b2.toNat % 16) ∧
    (a.mode = 0 → a.ampm = 0 ∧ a.hr.toNat = b2.toNat % 64 / 16 * 10 + b2.toNat % 16) ∧
    a.am4.toNat = b3.toNat / 128 ∧ a.dydt.toNat = b3.toNat / 64 % 2 ∧
    (a.dydt = 1 → a.day.toNat = b3.toNat % 64 / 16 * 10 + b3.toNat % 16 ∧ a.date = u) ∧
    (a.dydt = 0 → a.date.toNat = b3.toNat % 64 / 16 * 10 + b3.toNat % 16 ∧ a.day = u)

/-- O38. Bit 7 of the three time registers is written 0 and ignored on decode (R108, R109, R115; for the hours the spec's D8: log 13);
the calendar bytes lose no bit in either direction (R110; the spec's D7). -/
def Obligations.ReservedBitsZeroAndIgnored : Prop :=
  (∀ t : Time, ∀ b ∈ encTime t, b.toNat < 128) ∧
  (∀ b0 b1 b2 : Byte, decTime [b0 ||| 0x80, b1 ||| 0x80, b2 ||| 0x80] = decTime [b0, b1, b2]) ∧
  (∀ c : Calendar, encCal c = [toBcd c.day, toBcd c.date, toBcd c.month, toBcd c.year]) ∧
  ∀ b0 b1 b2 b3 : Byte, decCal [b0, b1, b2, b3] =
    some { day := fromBcd b0, date := fromBcd b1, month := fromBcd b2, year := fromBcd b3 }

/-- O39. The time round trip (R170a, with its wider domains; the spec's D6, D8, D9). -/
def Obligations.TimeRoundTrip : Prop :=
  ∀ t : Time, TimeFits t → decTime (encTime t) = some t

/-- O40. The calendar round trip (R170b; the spec's D5, D7). -/
def Obligations.CalendarRoundTrip : Prop :=
  ∀ c : Calendar, CalendarFits c → decCal (encCal c) = some c

/-- O41. The alarm round trips (R170c, R170d; the spec's D6, D8, D9, D11): every field comes back but the unselected one of day and
date and, for Alarm 2, the seconds and am1, which are the free values. -/
def Obligations.AlarmRoundTrip : Prop :=
  ∀ (u x : Byte) (f : Bit) (a : Alarm), AlarmFits a →
    (a.sec.toNat < 80 → decAlarm1 u (encAlarm1 a) =
      some { a with day := if a.dydt = 1 then a.day else u, date := if a.dydt = 1 then u else a.date }) ∧
    decAlarm2 u x f (encAlarm2 a) =
      some { a with sec := x, am1 := f, day := if a.dydt = 1 then a.day else u, date := if a.dydt = 1 then u else a.date }

/-- O42. The merge (R169; the spec's D17): bit by bit, the new value's where the mask is 1, the old one's where it is 0. -/
def Obligations.MergeTakesMaskedBits : Prop :=
  ∀ (old new mask : Byte) (k : Nat), k < 8 →
    (merge old new mask).getLsbD k = if mask.getLsbD k then new.getLsbD k else old.getLsbD k

/-- O43. The temperature combination (R168): the two bytes side by side, the first one high. -/
def Obligations.TemperatureCombines : Prop :=
  ∀ b0 b1 : Byte, ∃ v, temp16 [b0, b1] = some v ∧ v.toNat = b0.toNat * 256 + b1.toNat ∧
    v = (b0.setWidth 16 <<< 8) ||| b1.setWidth 16

/-! The epoch -/

/-- O44. Epoch values, whatever the day of the week: the source's cases (R226), 2000-01-01 00:00:00, and 29 February against 1 February
2000 at 12:00:00; and on 2000-01-01 in 12-hour mode (V10) 12 AM, 12 PM, 1 PM and hour 13 AM. Only the difference of the two February
values is free of a choice: the counts rest on the reference 1970-01-01 and the day formula (the spec's D22, G1: log 14), the 12-hour
ones on the spec's D10, D21 too (log 14). -/
def Obligations.EpochKnownValues : Prop :=
  ∀ (u : BitVec 64) (day : Byte),
    epochOf u { sec := 0, min := 0, hr := 0, mode := 0, ampm := 0 } { day := day, date := 1, month := 1, year := 0 } = 946684800 ∧
    epochOf u { sec := 0, min := 0, hr := 12, mode := 0, ampm := 0 } { day := day, date := 29, month := 2, year := 0 } = 951825600 ∧
    epochOf u { sec := 0, min := 0, hr := 12, mode := 0, ampm := 0 } { day := day, date := 1, month := 2, year := 0 } = 949406400 ∧
    (951825600 : Int) - 949406400 = 28 * 86400 ∧
    epochOf u { sec := 0, min := 0, hr := 12, mode := 1, ampm := 0 } { day := day, date := 1, month := 1, year := 0 } = 946684800 ∧
    epochOf u { sec := 0, min := 0, hr := 12, mode := 1, ampm := 1 } { day := day, date := 1, month := 1, year := 0 } = 946728000 ∧
    epochOf u { sec := 0, min := 0, hr := 1, mode := 1, ampm := 1 } { day := day, date := 1, month := 1, year := 0 } = 946731600 ∧
    epochOf u { sec := 0, min := 0, hr := 13, mode := 1, ampm := 0 } { day := day, date := 1, month := 1, year := 0 } = 946688400

/-- O45. The range of the epoch (R224; the spec's D10, D21, D22: log 14): for every decodable field and a month from 1 to 12 the day
count is 10956 to 71721, the 64-bit result is the exact sum, and it is positive and at most 6196861585. -/
def Obligations.EpochRange : Prop :=
  ∀ (u : BitVec 64) (t : Time) (c : Calendar), t.sec.toNat ≤ 85 → t.min.toNat ≤ 85 → t.hr.toNat ≤ 45 →
    c.date.toNat ≤ 165 → c.year.toNat ≤ 165 → 1 ≤ c.month.toNat → c.month.toNat ≤ 12 →
    10956 ≤ daysOf c.date c.month c.year ∧ daysOf c.date c.month c.year ≤ 71721 ∧
    (epochOf u t c).toInt = epochSeconds t c ∧ 0 < (epochOf u t c).toInt ∧ (epochOf u t c).toInt ≤ 6196861585

/-- O46. The day count (R223, R225; the spec's D22: log 14): the date enters it linearly; for the years 2000 to 2099 it equals the simpler
form; for 2100 to 2165 too, 2100 being no leap year, so a day less from 2101 on and none more after its February (V10: 29 February 2100 is
1 March 2100, day 47541). For a month outside 1 to 12 the spec gives no day count (R223); that the first clause covers such months
is the model's choice of a total `daysOf`, which never reaches `EPOCH` (log 29). -/
def Obligations.DaysOfForms : Prop :=
  (∀ d d' m y : Byte, daysOf d' m y - daysOf d m y = (d'.toNat : Int) - d.toNat) ∧
  (∀ date month year : Byte, 1 ≤ month.toNat → month.toNat ≤ 12 → year.toNat ≤ 99 →
    ∃ before, daysBefore[month.toNat - 1]? = some before ∧
      daysOf date month year =
        10957 + 365 * (year.toNat : Int) + ((year.toNat : Int) + 3) / 4 + before
          + (if year.toNat % 4 = 0 ∧ 2 < month.toNat then 1 else 0) + (date.toNat : Int) - 1) ∧
  (∀ date month year : Byte, 1 ≤ month.toNat → month.toNat ≤ 12 → 100 ≤ year.toNat → year.toNat ≤ 165 →
    ∃ before, daysBefore[month.toNat - 1]? = some before ∧
      daysOf date month year =
        10957 + 365 * (year.toNat : Int) + ((year.toNat : Int) + 3) / 4 - (if 100 < year.toNat then 1 else 0) + before
          + (if year.toNat % 4 = 0 ∧ year.toNat ≠ 100 ∧ 2 < month.toNat then 1 else 0) + (date.toNat : Int) - 1) ∧
  daysOf 29 2 100 = 47541 ∧ daysOf 1 3 100 = 47541

/-! Whole-machine rules -/

/-- O47. `STATUS` (R27): the only step that can change it is one that takes the transport's answer and ends a command, and then it is
the transport's code, unchanged; while busy it holds what it held. -/
def Obligations.StatusOnlyFromTransport : Prop :=
  ∀ s t : State, Inv s → step s = .next t →
    (t.status = s.status ∨
      ∃ st rest, s.inputs = .answer st :: rest ∧ s.phase ≠ .idle ∧ t.phase = .idle ∧ t.status = st) ∧
    (t.phase ≠ .idle → t.status = s.status)

/-- O48. Failure propagation (R207; for `GET_TEMP` and `GET_EPOCH` the spec's D18): an answer either ends the command, with exactly
that status in `STATUS`, or has status 0 and the command makes its second request. -/
def Obligations.FailurePropagates : Prop :=
  ∀ (s : State) (st : Status) (rest : List Input), Inv s → s.phase ≠ .idle → s.inputs = .answer st :: rest →
    ∃ t, step s = .next t ∧ (t.phase = .idle ∧ t.status = st ∨ t.phase = .wait2 ∧ s.phase = .wait1 ∧ st = 0)

/-- O49. `ILL` (R28; the spec's D4): issuing a command clears it, issuing a reserved code sets it, no other step changes it. -/
def Obligations.IllOnlyFromIssue : Prop :=
  (∀ (s : State) (c : Byte) (rest : List Input), s.phase = .idle → s.inputs = .cmd c :: rest →
    ∃ t, step s = .next t ∧ ((∃ i, decode c = .command i) → t.ill = 0) ∧ ((∃ w, decode c = .reserved w) → t.ill = 1)) ∧
  ∀ s t : State, Inv s → step s = .next t → (s.phase ≠ .idle ∨ ∀ c rest, s.inputs ≠ .cmd c :: rest) → t.ill = s.ill

/-- O50. The registers that no command writes (R36): `BIN`, `CS_CMASK` and `CS_SMASK` change only when the host writes a byte register. -/
def Obligations.HostOnlyRegisters : Prop :=
  ∀ s t : State, step s = .next t → (∀ r v rest, s.inputs ≠ .wrByte r v :: rest) →
    t.bank.bin = s.bank.bin ∧ t.bank.cs.cmask = s.bank.cs.cmask ∧ t.bank.cs.smask = s.bank.cs.smask

/-- O51. The device address (R25, R66): it is 0x68 at reset, no step changes it, and every request the block emits carries it. -/
def Obligations.DeviceAddressFixed : Prop :=
  State.reset.devAddr = 0x68 ∧
  ∀ s t : State, step s = .next t → t.devAddr = s.devAddr ∧
    ∀ r, t.bus = .pending r → s.bus = .pending r ∨ r.dev = s.devAddr

/-- O52. The aging-offset register 0x10 (R81): no request covers it, and only the environment's own change of it can change it: that a
transaction leaves registers outside its block alone is R68 and R80 (the spec's D20, D26: log 20), that a read changes none is the
model's choice (log 2). -/
def Obligations.AgingNeverTouched : Prop :=
  ∀ s t : State, Inv s → step s = .next t →
    (∀ r, t.bus = .pending r → Outside r.start.toNat r.len 0x10) ∧
    ((∀ a v rest, s.inputs = .regChange a v :: rest → a.val ≠ 0x10) → t.mem.read 0x10 = s.mem.read 0x10)

/-- O53. The only requests (R62, R66; the two-byte bursts are the spec's D16: log 15). -/
def Obligations.OnlyTheSixBlocks : Prop :=
  ∀ (s t : State) (r : Request), Inv s → step s = .next t → t.bus = .pending r →
    r.dev = 0x68 ∧
      ((shapeOf r).dir, (shapeOf r).start, (shapeOf r).len) ∈
        ([(.write, 0x00, 3), (.read, 0x00, 3), (.write, 0x03, 4), (.read, 0x03, 4), (.write, 0x07, 4), (.read, 0x07, 4),
          (.write, 0x0B, 3), (.read, 0x0B, 3), (.write, 0x0E, 2), (.read, 0x0E, 2), (.read, 0x11, 2)] :
          List (Dir × Byte × Nat))

/-- O54. Nothing hidden is carried from one command to the next (R20, R24; the spec's D3): from an idle state, whatever `cur`, `lat` and
`rbuf` hold, any number of steps shows the same. The free values (R12) are taken the same in both runs, since both start with the same
counter: that is the model's choice (log 7), where the spec lets two draws differ. -/
def Obligations.HiddenStateCarriesNothing : Prop :=
  ∀ (k : Nat) (s : State) (c : Byte) (l : LatBytes) (b : RbufBytes), s.phase = .idle → s.bus = .quiet →
    (nextOf (steps k { s with cur := c, lat := l, rbuf := b })).map visible = (nextOf (steps k s)).map visible

/-- O55. From a state that meets the invariant a step stops only on an answer to no request (log 11, log 12), and never refuses. -/
def Obligations.OnlyUnsolicitedAnswersStop : Prop :=
  ∀ s : State, Inv s →
    (∀ f, step s = .fault f → f = .unsolicitedAnswer ∧ s.phase = .idle ∧ ∃ st rest, s.inputs = .answer st :: rest) ∧
    ∀ r, step s ≠ .refused r

/-- O56. The meanings reach the peripheral only through requests (R60): whatever a label does, no peripheral register, nor the device
address, the host's last read or the schedule, is changed by it. -/
def Obligations.MeaningsNeverTouchThePeripheral : Prop :=
  ∀ (i : Instr) (s t : State), exec i s = .next t →
    (∀ a, t.mem.read a = s.mem.read a) ∧ t.devAddr = s.devAddr ∧ t.hostData = s.hostData ∧ t.inputs = s.inputs

/-- O57. Write, then read back, against an environment that answers 0 and changes nothing (R188; the spec's D5 to D9, D11, D16, D26): the
time, the calendar, the control/status bytes and each alarm come back, the alarm fields that decode to free values left out. Bytes are
stored as written (log 20), at the answer (log 21), and a read changes none (log 2). -/
def Obligations.WriteThenReadAgrees : Prop :=
  ∀ (s : State) (rest : List Input), s.phase = .idle → s.devAddr = Config.devAddr →
    (s.inputs = .cmd 0x10 :: .answer 0 :: .cmd 0x11 :: .answer 0 :: rest → TimeFits s.bank.time →
      ∃ t, steps 4 s = .next t ∧ t.status = 0 ∧ t.bank = s.bank) ∧
    (s.inputs = .cmd 0x12 :: .answer 0 :: .cmd 0x13 :: .answer 0 :: rest → CalendarFits s.bank.cal →
      ∃ t, steps 4 s = .next t ∧ t.status = 0 ∧ t.bank = s.bank) ∧
    (s.inputs = .cmd 0x18 :: .answer 0 :: .cmd 0x19 :: .answer 0 :: rest →
      ∃ t, steps 4 s = .next t ∧ t.status = 0 ∧ t.bank = s.bank) ∧
    (s.inputs = .cmd 0x14 :: .answer 0 :: .cmd 0x15 :: .answer 0 :: rest → AlarmFits s.bank.alarm → s.bank.alarm.sec.toNat < 80 →
      ∃ t u, steps 4 s = .next t ∧ t.status = 0 ∧
        t.bank = { s.bank with alarm := { s.bank.alarm with
          day := if s.bank.alarm.dydt = 1 then s.bank.alarm.day else u
          date := if s.bank.alarm.dydt = 1 then u else s.bank.alarm.date } }) ∧
    (s.inputs = .cmd 0x16 :: .answer 0 :: .cmd 0x17 :: .answer 0 :: rest → AlarmFits s.bank.alarm →
      ∃ t u x f, steps 4 s = .next t ∧ t.status = 0 ∧
        t.bank = { s.bank with alarm := { s.bank.alarm with
          sec := x
          am1 := f
          day := if s.bank.alarm.dydt = 1 then s.bank.alarm.day else u
          date := if s.bank.alarm.dydt = 1 then u else s.bank.alarm.date } })

/-- O58. The lost update (R77, R281; the spec's D17): what the environment does to the control and status registers between the read
and the write of `RMW_CS` is overwritten by the merge with the bytes read. That both registers end as the merged bytes is of the
reference environment (the spec's D26: log 20); that every change before the second answer comes before the write is the model's choice
of the instant of a transaction (log 21); that the first read changes no register is too (log 2). -/
def Obligations.RmwOverwritesConcurrentChange : Prop :=
  ∀ (s : State) (cs : List (Fin Config.nreg × Byte)) (rest : List Input), s.phase = .idle → s.devAddr = Config.devAddr →
    s.inputs = .cmd 0x1A :: .answer 0 :: (changes cs ++ .answer 0 :: rest) →
    ∃ t, steps (3 + cs.length) s = .next t ∧ t.phase = .idle ∧ t.status = 0 ∧ t.inputs = rest ∧
      t.mem.read 0x0E = merge (s.mem.read 0x0E) s.bank.cs.ctl s.bank.cs.cmask ∧
      t.mem.read 0x0F = merge (s.mem.read 0x0F) s.bank.cs.stat s.bank.cs.smask ∧
      ∀ a, Outside 0x0E 2 a → t.mem.read a = (memAfter cs s.mem).read a

/-- O59. The torn epoch (R77, R227, R280; the spec's D10, D21, D22, D23: log 14, log 25): the time is the one before the environment's
changes between the two reads, the calendar the one after them. That every change before the second answer comes before the second
read is the model's choice of the instant of a transaction (log 21), and that the first read changes no register is too (log 2). -/
def Obligations.TornEpoch : Prop :=
  ∀ (s : State) (cs : List (Fin Config.nreg × Byte)) (rest : List Input), s.phase = .idle → s.devAddr = Config.devAddr →
    s.inputs = .cmd 0x1D :: .answer 0 :: (changes cs ++ .answer 0 :: rest) →
    ∃ t v tm c, steps (3 + cs.length) s = .next t ∧ t.phase = .idle ∧ t.status = 0 ∧ t.inputs = rest ∧
      t.bank = { s.bank with epoch := v } ∧
      decTime (s.mem.readBurst 0x00 3) = some tm ∧ decCal ((memAfter cs s.mem).readBurst 0x03 4) = some c ∧
      (1 ≤ c.month.toNat → c.month.toNat ≤ 12 → v.toInt = epochSeconds tm c)
end

