-- ==== Sys2Proof/Laws/Memory.lean ====
section
/-! SUPPORT. The laws of the peripheral's registers: read after write, bursts, and that every operation keeps the canonical form. -/

namespace Sys2Proof.Machine

theorem Memory.read_insert (a x : Nat) (v : Byte) (m : Memory) :
    Memory.read (Memory.insert a v m) x = if x = a then v else m.read x := by
  induction m with
  | nil => simp [Memory.insert, Memory.read]
  | cons c rest ih =>
    obtain ⟨b, u⟩ := c
    simp only [Memory.insert]
    split
    · simp only [Memory.read]
    · split
      · rename_i h
        subst h
        simp only [Memory.read]
        split <;> simp_all
      · rename_i hab
        simp only [Memory.read, ih]
        by_cases hx : x = b
        · subst hx
          simp [Ne.symm hab]
        · simp [hx]

theorem Memory.read_erase (a x : Nat) (m : Memory) :
    Memory.read (Memory.erase a m) x = if x = a then Memory.unlisted else m.read x := by
  induction m with
  | nil => simp [Memory.erase, Memory.read]
  | cons c rest ih =>
    obtain ⟨b, u⟩ := c
    simp only [Memory.erase] at ih ⊢
    by_cases h : b = a
    · subst h
      simp only [ne_eq, not_true_eq_false, decide_false, Bool.false_eq_true, not_false_eq_true, List.filter_cons_of_neg, ih,
        Memory.read]
      split <;> rfl
    · simp only [ne_eq, h, not_false_eq_true, decide_true, List.filter_cons_of_pos, Memory.read]
      rw [ih]
      split <;> simp_all

/-- A register reads as written, every other one as before. -/
theorem Memory.read_write (a x : Nat) (v : Byte) (m : Memory) :
    Memory.read (m.write a v) x = if x = a then v else m.read x := by
  unfold Memory.write
  split
  · rename_i h
    rw [Memory.read_erase, h]
  · exact Memory.read_insert a x v m

theorem Memory.mem_insert (a : Nat) (v : Byte) (m : Memory) (c : Host.Cell) (h : c ∈ Memory.insert a v m) :
    c = (a, v) ∨ c ∈ m := by
  induction m with
  | nil => simpa [Memory.insert] using h
  | cons d rest ih =>
    obtain ⟨b, u⟩ := d
    simp only [Memory.insert] at h
    split at h
    · simpa using h
    · split at h
      · rcases List.mem_cons.1 h with h | h
        · exact .inl h
        · exact .inr (List.mem_cons_of_mem _ h)
      · rcases List.mem_cons.1 h with h | h
        · exact .inr (h ▸ List.mem_cons_self)
        · exact (ih h).imp id (List.mem_cons_of_mem _)

theorem Memory.insert_pairwise (a : Nat) (v : Byte) (m : Memory) (h : m.Pairwise (fun x y => x.1 < y.1)) :
    (Memory.insert a v m).Pairwise (fun x y => x.1 < y.1) := by
  induction m with
  | nil => simp [Memory.insert]
  | cons d rest ih =>
    obtain ⟨b, u⟩ := d
    obtain ⟨hb, hr⟩ := List.pairwise_cons.1 h
    simp only [Memory.insert]
    split
    · rename_i hab
      refine List.pairwise_cons.2 ⟨fun c hc => ?_, h⟩
      rcases List.mem_cons.1 hc with rfl | hc
      · exact hab
      · exact Nat.lt_trans hab (hb c hc)
    · split
      · rename_i hab
        subst hab
        exact List.pairwise_cons.2 ⟨hb, hr⟩
      · refine List.pairwise_cons.2 ⟨fun c hc => ?_, ih hr⟩
        rcases Memory.mem_insert a v rest c hc with rfl | hc
        · simp only; omega
        · exact hb c hc

/-- Writing a register that exists keeps the canonical form. -/
theorem Memory.write_wf (a : Nat) (v : Byte) (m : Memory) (ha : a < Config.nreg) (h : m.wf) : (m.write a v).wf := by
  obtain ⟨hp, hc⟩ := h
  unfold Memory.write
  split
  · exact ⟨hp.filter _, fun c hm => hc c (List.mem_of_mem_filter hm)⟩
  · rename_i hv
    refine ⟨Memory.insert_pairwise a v m hp, fun c hm => ?_⟩
    rcases Memory.mem_insert a v m c hm with rfl | hm
    · exact ⟨ha, hv⟩
    · exact hc c hm

/-- Writing a burst that lies inside the register map keeps the canonical form. -/
theorem Memory.writeBurst_wf (start : Nat) (w : List Byte) (m : Memory) (hs : start + w.length ≤ Config.nreg) (h : m.wf) :
    (m.writeBurst start w).wf := by
  induction w generalizing start m with
  | nil => exact h
  | cons v rest ih =>
    simp only [List.length_cons] at hs
    exact ih (start + 1) _ (by omega) (Memory.write_wf start v m (by omega) h)

/-- A burst leaves every register outside it as it was. -/
theorem Memory.read_writeBurst_outside (start : Nat) (w : List Byte) (m : Memory) (a : Nat)
    (h : a < start ∨ start + w.length ≤ a) : Memory.read (m.writeBurst start w) a = m.read a := by
  induction w generalizing start m with
  | nil => rfl
  | cons v rest ih =>
    simp only [List.length_cons] at h
    rw [Memory.writeBurst, ih (start + 1) _ (by omega), Memory.read_write, if_neg (by omega)]

/-- A burst puts its bytes into consecutive registers. -/
theorem Memory.read_writeBurst_inside (start : Nat) (w : List Byte) (m : Memory) (k : Nat) (h : k < w.length) :
    Memory.read (m.writeBurst start w) (start + k) = w[k] := by
  induction w generalizing start m k with
  | nil => simp at h
  | cons v rest ih =>
    rw [Memory.writeBurst]
    cases k with
    | zero =>
      rw [Memory.read_writeBurst_outside _ _ _ _ (by omega), Memory.read_write]
      simp
    | succ k =>
      simp only [List.length_cons] at h
      have := ih (start + 1) (m.write start v) k (by omega)
      rw [show start + (k + 1) = start + 1 + k by omega, this]
      rfl

@[simp] theorem Memory.length_readBurst (m : Memory) (start n : Nat) : (m.readBurst start n).length = n := by
  induction n generalizing start with
  | zero => rfl
  | succ n ih => simp [Memory.readBurst, ih]

/-- The `k`-th byte of a read burst is the `k`-th register from its start. -/
theorem Memory.getElem?_readBurst (m : Memory) (start n k : Nat) (h : k < n) :
    (m.readBurst start n)[k]? = some (m.read (start + k)) := by
  induction n generalizing start k with
  | zero => omega
  | succ n ih =>
    cases k with
    | zero => rfl
    | succ k =>
      rw [Memory.readBurst, List.getElem?_cons_succ, ih (start + 1) k (by omega)]
      congr 2
      omega

/-- Reading back a burst that was just written gives its bytes. -/
theorem Memory.readBurst_writeBurst (start : Nat) (w : List Byte) (m : Memory) :
    Memory.readBurst (m.writeBurst start w) start w.length = w := by
  apply List.ext_getElem?
  intro k
  by_cases h : k < w.length
  · rw [Memory.getElem?_readBurst _ _ _ _ h, Memory.read_writeBurst_inside _ _ _ _ h, List.getElem?_eq_getElem h]
  · rw [List.getElem?_eq_none (by simpa using h), List.getElem?_eq_none (by simpa using h)]

@[simp] theorem length_freeBytes (k n : Nat) : (freeBytes k n).length = n := by
  induction n generalizing k with
  | zero => rfl
  | succ n ih => simp [freeBytes, ih]

end Sys2Proof.Machine
end

