-- ==== Sys2Proof/Laws/State.lean ====
section
/-! SUPPORT. What each update of the state does to each field: one lemma per field per update, so that no later proof unfolds a
record update. -/

namespace Sys2Proof.Machine

/-! `clearIll` -/

@[simp] theorem clearIll_devAddr (s : State) : (clearIll s).devAddr = s.devAddr := rfl
@[simp] theorem clearIll_phase (s : State) : (clearIll s).phase = s.phase := rfl
@[simp] theorem clearIll_cur (s : State) : (clearIll s).cur = s.cur := rfl
@[simp] theorem clearIll_bus (s : State) : (clearIll s).bus = s.bus := rfl
@[simp] theorem clearIll_lat (s : State) : (clearIll s).lat = s.lat := rfl
@[simp] theorem clearIll_rbuf (s : State) : (clearIll s).rbuf = s.rbuf := rfl
@[simp] theorem clearIll_status (s : State) : (clearIll s).status = s.status := rfl
@[simp] theorem clearIll_ill (s : State) : (clearIll s).ill = 0 := rfl
@[simp] theorem clearIll_bank (s : State) : (clearIll s).bank = s.bank := rfl
@[simp] theorem clearIll_mem (s : State) : (clearIll s).mem = s.mem := rfl
@[simp] theorem clearIll_hostData (s : State) : (clearIll s).hostData = s.hostData := rfl
@[simp] theorem clearIll_draws (s : State) : (clearIll s).draws = s.draws := rfl
@[simp] theorem clearIll_inputs (s : State) : (clearIll s).inputs = s.inputs := rfl

/-! `setIll` -/

@[simp] theorem setIll_devAddr (s : State) : (setIll s).devAddr = s.devAddr := rfl
@[simp] theorem setIll_phase (s : State) : (setIll s).phase = s.phase := rfl
@[simp] theorem setIll_cur (s : State) : (setIll s).cur = s.cur := rfl
@[simp] theorem setIll_bus (s : State) : (setIll s).bus = s.bus := rfl
@[simp] theorem setIll_lat (s : State) : (setIll s).lat = s.lat := rfl
@[simp] theorem setIll_rbuf (s : State) : (setIll s).rbuf = s.rbuf := rfl
@[simp] theorem setIll_status (s : State) : (setIll s).status = s.status := rfl
@[simp] theorem setIll_ill (s : State) : (setIll s).ill = 1 := rfl
@[simp] theorem setIll_bank (s : State) : (setIll s).bank = s.bank := rfl
@[simp] theorem setIll_mem (s : State) : (setIll s).mem = s.mem := rfl
@[simp] theorem setIll_hostData (s : State) : (setIll s).hostData = s.hostData := rfl
@[simp] theorem setIll_draws (s : State) : (setIll s).draws = s.draws := rfl
@[simp] theorem setIll_inputs (s : State) : (setIll s).inputs = s.inputs := rfl

/-! `raiseIllegal` -/

@[simp] theorem raiseIllegal_devAddr (s : State) : (raiseIllegal s).devAddr = s.devAddr := rfl
@[simp] theorem raiseIllegal_phase (s : State) : (raiseIllegal s).phase = s.phase := rfl
@[simp] theorem raiseIllegal_cur (s : State) : (raiseIllegal s).cur = s.cur := rfl
@[simp] theorem raiseIllegal_bus (s : State) : (raiseIllegal s).bus = s.bus := rfl
@[simp] theorem raiseIllegal_lat (s : State) : (raiseIllegal s).lat = s.lat := rfl
@[simp] theorem raiseIllegal_rbuf (s : State) : (raiseIllegal s).rbuf = s.rbuf := rfl
@[simp] theorem raiseIllegal_status (s : State) : (raiseIllegal s).status = s.status := rfl
@[simp] theorem raiseIllegal_ill (s : State) : (raiseIllegal s).ill = 1 := rfl
@[simp] theorem raiseIllegal_bank (s : State) : (raiseIllegal s).bank = s.bank := rfl
@[simp] theorem raiseIllegal_mem (s : State) : (raiseIllegal s).mem = s.mem := rfl
@[simp] theorem raiseIllegal_hostData (s : State) : (raiseIllegal s).hostData = s.hostData := rfl
@[simp] theorem raiseIllegal_draws (s : State) : (raiseIllegal s).draws = s.draws := rfl
@[simp] theorem raiseIllegal_inputs (s : State) : (raiseIllegal s).inputs = s.inputs := rfl

/-! `setStatus` -/

@[simp] theorem setStatus_devAddr (st : Status) (s : State) : (setStatus st s).devAddr = s.devAddr := rfl
@[simp] theorem setStatus_phase (st : Status) (s : State) : (setStatus st s).phase = s.phase := rfl
@[simp] theorem setStatus_cur (st : Status) (s : State) : (setStatus st s).cur = s.cur := rfl
@[simp] theorem setStatus_bus (st : Status) (s : State) : (setStatus st s).bus = s.bus := rfl
@[simp] theorem setStatus_lat (st : Status) (s : State) : (setStatus st s).lat = s.lat := rfl
@[simp] theorem setStatus_rbuf (st : Status) (s : State) : (setStatus st s).rbuf = s.rbuf := rfl
@[simp] theorem setStatus_status (st : Status) (s : State) : (setStatus st s).status = st := rfl
@[simp] theorem setStatus_ill (st : Status) (s : State) : (setStatus st s).ill = s.ill := rfl
@[simp] theorem setStatus_bank (st : Status) (s : State) : (setStatus st s).bank = s.bank := rfl
@[simp] theorem setStatus_mem (st : Status) (s : State) : (setStatus st s).mem = s.mem := rfl
@[simp] theorem setStatus_hostData (st : Status) (s : State) : (setStatus st s).hostData = s.hostData := rfl
@[simp] theorem setStatus_draws (st : Status) (s : State) : (setStatus st s).draws = s.draws := rfl
@[simp] theorem setStatus_inputs (st : Status) (s : State) : (setStatus st s).inputs = s.inputs := rfl

/-! `advanceDraws` -/

@[simp] theorem advanceDraws_devAddr (n : Nat) (s : State) : (advanceDraws n s).devAddr = s.devAddr := rfl
@[simp] theorem advanceDraws_phase (n : Nat) (s : State) : (advanceDraws n s).phase = s.phase := rfl
@[simp] theorem advanceDraws_cur (n : Nat) (s : State) : (advanceDraws n s).cur = s.cur := rfl
@[simp] theorem advanceDraws_bus (n : Nat) (s : State) : (advanceDraws n s).bus = s.bus := rfl
@[simp] theorem advanceDraws_lat (n : Nat) (s : State) : (advanceDraws n s).lat = s.lat := rfl
@[simp] theorem advanceDraws_rbuf (n : Nat) (s : State) : (advanceDraws n s).rbuf = s.rbuf := rfl
@[simp] theorem advanceDraws_status (n : Nat) (s : State) : (advanceDraws n s).status = s.status := rfl
@[simp] theorem advanceDraws_ill (n : Nat) (s : State) : (advanceDraws n s).ill = s.ill := rfl
@[simp] theorem advanceDraws_bank (n : Nat) (s : State) : (advanceDraws n s).bank = s.bank := rfl
@[simp] theorem advanceDraws_mem (n : Nat) (s : State) : (advanceDraws n s).mem = s.mem := rfl
@[simp] theorem advanceDraws_hostData (n : Nat) (s : State) : (advanceDraws n s).hostData = s.hostData := rfl
@[simp] theorem advanceDraws_draws (n : Nat) (s : State) : (advanceDraws n s).draws = s.draws + n := rfl
@[simp] theorem advanceDraws_inputs (n : Nat) (s : State) : (advanceDraws n s).inputs = s.inputs := rfl

/-! `issue` -/

@[simp] theorem issue_devAddr (code : Byte) (r : Request) (s : State) : (issue code r s).devAddr = s.devAddr := rfl
@[simp] theorem issue_phase (code : Byte) (r : Request) (s : State) : (issue code r s).phase = .wait1 := rfl
@[simp] theorem issue_cur (code : Byte) (r : Request) (s : State) : (issue code r s).cur = code := rfl
@[simp] theorem issue_bus (code : Byte) (r : Request) (s : State) : (issue code r s).bus = .pending r := rfl
@[simp] theorem issue_lat (code : Byte) (r : Request) (s : State) : (issue code r s).lat = s.lat := rfl
@[simp] theorem issue_rbuf (code : Byte) (r : Request) (s : State) : (issue code r s).rbuf = s.rbuf := rfl
@[simp] theorem issue_status (code : Byte) (r : Request) (s : State) : (issue code r s).status = s.status := rfl
@[simp] theorem issue_ill (code : Byte) (r : Request) (s : State) : (issue code r s).ill = 0 := rfl
@[simp] theorem issue_bank (code : Byte) (r : Request) (s : State) : (issue code r s).bank = s.bank := rfl
@[simp] theorem issue_mem (code : Byte) (r : Request) (s : State) : (issue code r s).mem = s.mem := rfl
@[simp] theorem issue_hostData (code : Byte) (r : Request) (s : State) : (issue code r s).hostData = s.hostData := rfl
@[simp] theorem issue_draws (code : Byte) (r : Request) (s : State) : (issue code r s).draws = s.draws := rfl
@[simp] theorem issue_inputs (code : Byte) (r : Request) (s : State) : (issue code r s).inputs = s.inputs := rfl

/-! `emitSecond` -/

@[simp] theorem emitSecond_devAddr (r : Request) (s : State) : (emitSecond r s).devAddr = s.devAddr := rfl
@[simp] theorem emitSecond_phase (r : Request) (s : State) : (emitSecond r s).phase = .wait2 := rfl
@[simp] theorem emitSecond_cur (r : Request) (s : State) : (emitSecond r s).cur = s.cur := rfl
@[simp] theorem emitSecond_bus (r : Request) (s : State) : (emitSecond r s).bus = .pending r := rfl
@[simp] theorem emitSecond_lat (r : Request) (s : State) : (emitSecond r s).lat = s.lat := rfl
@[simp] theorem emitSecond_rbuf (r : Request) (s : State) : (emitSecond r s).rbuf = s.rbuf := rfl
@[simp] theorem emitSecond_status (r : Request) (s : State) : (emitSecond r s).status = s.status := rfl
@[simp] theorem emitSecond_ill (r : Request) (s : State) : (emitSecond r s).ill = s.ill := rfl
@[simp] theorem emitSecond_bank (r : Request) (s : State) : (emitSecond r s).bank = s.bank := rfl
@[simp] theorem emitSecond_mem (r : Request) (s : State) : (emitSecond r s).mem = s.mem := rfl
@[simp] theorem emitSecond_hostData (r : Request) (s : State) : (emitSecond r s).hostData = s.hostData := rfl
@[simp] theorem emitSecond_draws (r : Request) (s : State) : (emitSecond r s).draws = s.draws := rfl
@[simp] theorem emitSecond_inputs (r : Request) (s : State) : (emitSecond r s).inputs = s.inputs := rfl

/-! `finish` -/

@[simp] theorem finish_devAddr (st : Status) (s : State) : (finish st s).devAddr = s.devAddr := rfl
@[simp] theorem finish_phase (st : Status) (s : State) : (finish st s).phase = .idle := rfl
@[simp] theorem finish_bus (st : Status) (s : State) : (finish st s).bus = .quiet := rfl
@[simp] theorem finish_status (st : Status) (s : State) : (finish st s).status = st := rfl
@[simp] theorem finish_ill (st : Status) (s : State) : (finish st s).ill = s.ill := rfl
@[simp] theorem finish_bank (st : Status) (s : State) : (finish st s).bank = s.bank := rfl
@[simp] theorem finish_mem (st : Status) (s : State) : (finish st s).mem = s.mem := rfl
@[simp] theorem finish_hostData (st : Status) (s : State) : (finish st s).hostData = s.hostData := rfl
@[simp] theorem finish_draws (st : Status) (s : State) : (finish st s).draws = s.draws + 8 := rfl
@[simp] theorem finish_inputs (st : Status) (s : State) : (finish st s).inputs = s.inputs := rfl

/-! `sampleCs` -/

@[simp] theorem sampleCs_devAddr (s : State) : (sampleCs s).devAddr = s.devAddr := rfl
@[simp] theorem sampleCs_phase (s : State) : (sampleCs s).phase = s.phase := rfl
@[simp] theorem sampleCs_cur (s : State) : (sampleCs s).cur = s.cur := rfl
@[simp] theorem sampleCs_bus (s : State) : (sampleCs s).bus = s.bus := rfl
@[simp] theorem sampleCs_lat (s : State) : (sampleCs s).lat = { b0 := s.bank.cs.ctl, b1 := s.bank.cs.stat, b2 := s.bank.cs.cmask, b3 := s.bank.cs.smask } := rfl
@[simp] theorem sampleCs_rbuf (s : State) : (sampleCs s).rbuf = s.rbuf := rfl
@[simp] theorem sampleCs_status (s : State) : (sampleCs s).status = s.status := rfl
@[simp] theorem sampleCs_ill (s : State) : (sampleCs s).ill = s.ill := rfl
@[simp] theorem sampleCs_bank (s : State) : (sampleCs s).bank = s.bank := rfl
@[simp] theorem sampleCs_mem (s : State) : (sampleCs s).mem = s.mem := rfl
@[simp] theorem sampleCs_hostData (s : State) : (sampleCs s).hostData = s.hostData := rfl
@[simp] theorem sampleCs_draws (s : State) : (sampleCs s).draws = s.draws := rfl
@[simp] theorem sampleCs_inputs (s : State) : (sampleCs s).inputs = s.inputs := rfl

/-! `storeTime` -/

@[simp] theorem storeTime_devAddr (v : Time) (s : State) : (storeTime v s).devAddr = s.devAddr := rfl
@[simp] theorem storeTime_phase (v : Time) (s : State) : (storeTime v s).phase = s.phase := rfl
@[simp] theorem storeTime_cur (v : Time) (s : State) : (storeTime v s).cur = s.cur := rfl
@[simp] theorem storeTime_bus (v : Time) (s : State) : (storeTime v s).bus = s.bus := rfl
@[simp] theorem storeTime_lat (v : Time) (s : State) : (storeTime v s).lat = s.lat := rfl
@[simp] theorem storeTime_rbuf (v : Time) (s : State) : (storeTime v s).rbuf = s.rbuf := rfl
@[simp] theorem storeTime_status (v : Time) (s : State) : (storeTime v s).status = s.status := rfl
@[simp] theorem storeTime_ill (v : Time) (s : State) : (storeTime v s).ill = s.ill := rfl
@[simp] theorem storeTime_bank (v : Time) (s : State) : (storeTime v s).bank = { s.bank with time := v } := rfl
@[simp] theorem storeTime_mem (v : Time) (s : State) : (storeTime v s).mem = s.mem := rfl
@[simp] theorem storeTime_hostData (v : Time) (s : State) : (storeTime v s).hostData = s.hostData := rfl
@[simp] theorem storeTime_draws (v : Time) (s : State) : (storeTime v s).draws = s.draws := rfl
@[simp] theorem storeTime_inputs (v : Time) (s : State) : (storeTime v s).inputs = s.inputs := rfl

/-! `storeCal` -/

@[simp] theorem storeCal_devAddr (v : Calendar) (s : State) : (storeCal v s).devAddr = s.devAddr := rfl
@[simp] theorem storeCal_phase (v : Calendar) (s : State) : (storeCal v s).phase = s.phase := rfl
@[simp] theorem storeCal_cur (v : Calendar) (s : State) : (storeCal v s).cur = s.cur := rfl
@[simp] theorem storeCal_bus (v : Calendar) (s : State) : (storeCal v s).bus = s.bus := rfl
@[simp] theorem storeCal_lat (v : Calendar) (s : State) : (storeCal v s).lat = s.lat := rfl
@[simp] theorem storeCal_rbuf (v : Calendar) (s : State) : (storeCal v s).rbuf = s.rbuf := rfl
@[simp] theorem storeCal_status (v : Calendar) (s : State) : (storeCal v s).status = s.status := rfl
@[simp] theorem storeCal_ill (v : Calendar) (s : State) : (storeCal v s).ill = s.ill := rfl
@[simp] theorem storeCal_bank (v : Calendar) (s : State) : (storeCal v s).bank = { s.bank with cal := v } := rfl
@[simp] theorem storeCal_mem (v : Calendar) (s : State) : (storeCal v s).mem = s.mem := rfl
@[simp] theorem storeCal_hostData (v : Calendar) (s : State) : (storeCal v s).hostData = s.hostData := rfl
@[simp] theorem storeCal_draws (v : Calendar) (s : State) : (storeCal v s).draws = s.draws := rfl
@[simp] theorem storeCal_inputs (v : Calendar) (s : State) : (storeCal v s).inputs = s.inputs := rfl

/-! `storeAlarm` -/

@[simp] theorem storeAlarm_devAddr (v : Alarm) (s : State) : (storeAlarm v s).devAddr = s.devAddr := rfl
@[simp] theorem storeAlarm_phase (v : Alarm) (s : State) : (storeAlarm v s).phase = s.phase := rfl
@[simp] theorem storeAlarm_cur (v : Alarm) (s : State) : (storeAlarm v s).cur = s.cur := rfl
@[simp] theorem storeAlarm_bus (v : Alarm) (s : State) : (storeAlarm v s).bus = s.bus := rfl
@[simp] theorem storeAlarm_lat (v : Alarm) (s : State) : (storeAlarm v s).lat = s.lat := rfl
@[simp] theorem storeAlarm_rbuf (v : Alarm) (s : State) : (storeAlarm v s).rbuf = s.rbuf := rfl
@[simp] theorem storeAlarm_status (v : Alarm) (s : State) : (storeAlarm v s).status = s.status := rfl
@[simp] theorem storeAlarm_ill (v : Alarm) (s : State) : (storeAlarm v s).ill = s.ill := rfl
@[simp] theorem storeAlarm_bank (v : Alarm) (s : State) : (storeAlarm v s).bank = { s.bank with alarm := v } := rfl
@[simp] theorem storeAlarm_mem (v : Alarm) (s : State) : (storeAlarm v s).mem = s.mem := rfl
@[simp] theorem storeAlarm_hostData (v : Alarm) (s : State) : (storeAlarm v s).hostData = s.hostData := rfl
@[simp] theorem storeAlarm_draws (v : Alarm) (s : State) : (storeAlarm v s).draws = s.draws := rfl
@[simp] theorem storeAlarm_inputs (v : Alarm) (s : State) : (storeAlarm v s).inputs = s.inputs := rfl

/-! `storeCs` -/

@[simp] theorem storeCs_devAddr (v : Byte × Byte) (s : State) : (storeCs v s).devAddr = s.devAddr := rfl
@[simp] theorem storeCs_phase (v : Byte × Byte) (s : State) : (storeCs v s).phase = s.phase := rfl
@[simp] theorem storeCs_cur (v : Byte × Byte) (s : State) : (storeCs v s).cur = s.cur := rfl
@[simp] theorem storeCs_bus (v : Byte × Byte) (s : State) : (storeCs v s).bus = s.bus := rfl
@[simp] theorem storeCs_lat (v : Byte × Byte) (s : State) : (storeCs v s).lat = s.lat := rfl
@[simp] theorem storeCs_rbuf (v : Byte × Byte) (s : State) : (storeCs v s).rbuf = s.rbuf := rfl
@[simp] theorem storeCs_status (v : Byte × Byte) (s : State) : (storeCs v s).status = s.status := rfl
@[simp] theorem storeCs_ill (v : Byte × Byte) (s : State) : (storeCs v s).ill = s.ill := rfl
@[simp] theorem storeCs_bank (v : Byte × Byte) (s : State) : (storeCs v s).bank = { s.bank with cs := { s.bank.cs with ctl := v.1, stat := v.2 } } := rfl
@[simp] theorem storeCs_mem (v : Byte × Byte) (s : State) : (storeCs v s).mem = s.mem := rfl
@[simp] theorem storeCs_hostData (v : Byte × Byte) (s : State) : (storeCs v s).hostData = s.hostData := rfl
@[simp] theorem storeCs_draws (v : Byte × Byte) (s : State) : (storeCs v s).draws = s.draws := rfl
@[simp] theorem storeCs_inputs (v : Byte × Byte) (s : State) : (storeCs v s).inputs = s.inputs := rfl

/-! `storeTemp` -/

@[simp] theorem storeTemp_devAddr (v : BitVec 16) (s : State) : (storeTemp v s).devAddr = s.devAddr := rfl
@[simp] theorem storeTemp_phase (v : BitVec 16) (s : State) : (storeTemp v s).phase = s.phase := rfl
@[simp] theorem storeTemp_cur (v : BitVec 16) (s : State) : (storeTemp v s).cur = s.cur := rfl
@[simp] theorem storeTemp_bus (v : BitVec 16) (s : State) : (storeTemp v s).bus = s.bus := rfl
@[simp] theorem storeTemp_lat (v : BitVec 16) (s : State) : (storeTemp v s).lat = s.lat := rfl
@[simp] theorem storeTemp_rbuf (v : BitVec 16) (s : State) : (storeTemp v s).rbuf = s.rbuf := rfl
@[simp] theorem storeTemp_status (v : BitVec 16) (s : State) : (storeTemp v s).status = s.status := rfl
@[simp] theorem storeTemp_ill (v : BitVec 16) (s : State) : (storeTemp v s).ill = s.ill := rfl
@[simp] theorem storeTemp_bank (v : BitVec 16) (s : State) : (storeTemp v s).bank = { s.bank with temp := v } := rfl
@[simp] theorem storeTemp_mem (v : BitVec 16) (s : State) : (storeTemp v s).mem = s.mem := rfl
@[simp] theorem storeTemp_hostData (v : BitVec 16) (s : State) : (storeTemp v s).hostData = s.hostData := rfl
@[simp] theorem storeTemp_draws (v : BitVec 16) (s : State) : (storeTemp v s).draws = s.draws := rfl
@[simp] theorem storeTemp_inputs (v : BitVec 16) (s : State) : (storeTemp v s).inputs = s.inputs := rfl

/-! `storeEpoch` -/

@[simp] theorem storeEpoch_devAddr (v : BitVec 64) (s : State) : (storeEpoch v s).devAddr = s.devAddr := rfl
@[simp] theorem storeEpoch_phase (v : BitVec 64) (s : State) : (storeEpoch v s).phase = s.phase := rfl
@[simp] theorem storeEpoch_cur (v : BitVec 64) (s : State) : (storeEpoch v s).cur = s.cur := rfl
@[simp] theorem storeEpoch_bus (v : BitVec 64) (s : State) : (storeEpoch v s).bus = s.bus := rfl
@[simp] theorem storeEpoch_lat (v : BitVec 64) (s : State) : (storeEpoch v s).lat = s.lat := rfl
@[simp] theorem storeEpoch_rbuf (v : BitVec 64) (s : State) : (storeEpoch v s).rbuf = s.rbuf := rfl
@[simp] theorem storeEpoch_status (v : BitVec 64) (s : State) : (storeEpoch v s).status = s.status := rfl
@[simp] theorem storeEpoch_ill (v : BitVec 64) (s : State) : (storeEpoch v s).ill = s.ill := rfl
@[simp] theorem storeEpoch_bank (v : BitVec 64) (s : State) : (storeEpoch v s).bank = { s.bank with epoch := v } := rfl
@[simp] theorem storeEpoch_mem (v : BitVec 64) (s : State) : (storeEpoch v s).mem = s.mem := rfl
@[simp] theorem storeEpoch_hostData (v : BitVec 64) (s : State) : (storeEpoch v s).hostData = s.hostData := rfl
@[simp] theorem storeEpoch_draws (v : BitVec 64) (s : State) : (storeEpoch v s).draws = s.draws := rfl
@[simp] theorem storeEpoch_inputs (v : BitVec 64) (s : State) : (storeEpoch v s).inputs = s.inputs := rfl

/-! `deliver` -/

@[simp] theorem deliver_devAddr (v : Nat) (s : State) : (deliver v s).devAddr = s.devAddr := rfl
@[simp] theorem deliver_phase (v : Nat) (s : State) : (deliver v s).phase = s.phase := rfl
@[simp] theorem deliver_cur (v : Nat) (s : State) : (deliver v s).cur = s.cur := rfl
@[simp] theorem deliver_bus (v : Nat) (s : State) : (deliver v s).bus = s.bus := rfl
@[simp] theorem deliver_lat (v : Nat) (s : State) : (deliver v s).lat = s.lat := rfl
@[simp] theorem deliver_rbuf (v : Nat) (s : State) : (deliver v s).rbuf = s.rbuf := rfl
@[simp] theorem deliver_status (v : Nat) (s : State) : (deliver v s).status = s.status := rfl
@[simp] theorem deliver_ill (v : Nat) (s : State) : (deliver v s).ill = s.ill := rfl
@[simp] theorem deliver_bank (v : Nat) (s : State) : (deliver v s).bank = s.bank := rfl
@[simp] theorem deliver_mem (v : Nat) (s : State) : (deliver v s).mem = s.mem := rfl
@[simp] theorem deliver_hostData (v : Nat) (s : State) : (deliver v s).hostData = v := rfl
@[simp] theorem deliver_draws (v : Nat) (s : State) : (deliver v s).draws = s.draws := rfl
@[simp] theorem deliver_inputs (v : Nat) (s : State) : (deliver v s).inputs = s.inputs := rfl

/-! `changeReg` -/

@[simp] theorem changeReg_devAddr (a : Fin Config.nreg) (v : Byte) (s : State) : (changeReg a v s).devAddr = s.devAddr := rfl
@[simp] theorem changeReg_phase (a : Fin Config.nreg) (v : Byte) (s : State) : (changeReg a v s).phase = s.phase := rfl
@[simp] theorem changeReg_cur (a : Fin Config.nreg) (v : Byte) (s : State) : (changeReg a v s).cur = s.cur := rfl
@[simp] theorem changeReg_bus (a : Fin Config.nreg) (v : Byte) (s : State) : (changeReg a v s).bus = s.bus := rfl
@[simp] theorem changeReg_lat (a : Fin Config.nreg) (v : Byte) (s : State) : (changeReg a v s).lat = s.lat := rfl
@[simp] theorem changeReg_rbuf (a : Fin Config.nreg) (v : Byte) (s : State) : (changeReg a v s).rbuf = s.rbuf := rfl
@[simp] theorem changeReg_status (a : Fin Config.nreg) (v : Byte) (s : State) : (changeReg a v s).status = s.status := rfl
@[simp] theorem changeReg_ill (a : Fin Config.nreg) (v : Byte) (s : State) : (changeReg a v s).ill = s.ill := rfl
@[simp] theorem changeReg_bank (a : Fin Config.nreg) (v : Byte) (s : State) : (changeReg a v s).bank = s.bank := rfl
@[simp] theorem changeReg_mem (a : Fin Config.nreg) (v : Byte) (s : State) : (changeReg a v s).mem = s.mem.write a v := rfl
@[simp] theorem changeReg_hostData (a : Fin Config.nreg) (v : Byte) (s : State) : (changeReg a v s).hostData = s.hostData := rfl
@[simp] theorem changeReg_draws (a : Fin Config.nreg) (v : Byte) (s : State) : (changeReg a v s).draws = s.draws := rfl
@[simp] theorem changeReg_inputs (a : Fin Config.nreg) (v : Byte) (s : State) : (changeReg a v s).inputs = s.inputs := rfl

/-! `presentCommand` -/

@[simp] theorem presentCommand_devAddr (c : Byte) (s : State) : (presentCommand c s).devAddr = s.devAddr := rfl
@[simp] theorem presentCommand_phase (c : Byte) (s : State) : (presentCommand c s).phase = .idle := rfl
@[simp] theorem presentCommand_cur (c : Byte) (s : State) : (presentCommand c s).cur = s.cur := rfl
@[simp] theorem presentCommand_bus (c : Byte) (s : State) : (presentCommand c s).bus = .quiet := rfl
@[simp] theorem presentCommand_lat (c : Byte) (s : State) : (presentCommand c s).lat = s.lat := rfl
@[simp] theorem presentCommand_rbuf (c : Byte) (s : State) : (presentCommand c s).rbuf = s.rbuf := rfl
@[simp] theorem presentCommand_status (c : Byte) (s : State) : (presentCommand c s).status = s.status := rfl
@[simp] theorem presentCommand_ill (c : Byte) (s : State) : (presentCommand c s).ill = s.ill := rfl
@[simp] theorem presentCommand_bank (c : Byte) (s : State) : (presentCommand c s).bank = s.bank := rfl
@[simp] theorem presentCommand_mem (c : Byte) (s : State) : (presentCommand c s).mem = s.mem := rfl
@[simp] theorem presentCommand_hostData (c : Byte) (s : State) : (presentCommand c s).hostData = s.hostData := rfl
@[simp] theorem presentCommand_draws (c : Byte) (s : State) : (presentCommand c s).draws = s.draws := rfl
@[simp] theorem presentCommand_inputs (c : Byte) (s : State) : (presentCommand c s).inputs = .cmd c :: s.inputs := rfl

end Sys2Proof.Machine
end

