-- ==== Sys2Proof/Laws/Ops.lean ====
section
/-! SUPPORT. What each shared operation can do, said once: transactions, the end of a command, the two shapes of a bus command. -/

namespace Sys2Proof.Machine

@[simp] theorem succeeded_zero : succeeded (0#Config.statusW) = true := rfl

theorem succeeded_iff (st : Status) : succeeded st = true ↔ st = 0 := by simp [succeeded]

theorem succeeded_of_ne {st : Status} (h : st ≠ 0) : succeeded st = false := by simpa [succeeded] using h

/-- The status of a request outside the map is a failure whatever the width of `STATUS`. -/
theorem noDevice_ne_zero : noDevice ≠ 0 := by
  intro h
  have := congrArg BitVec.toNat h
  simp [noDevice, Config.statusW] at this

/-! A transaction changes the port, the addressed registers and the free values' counter, nothing else. -/

@[simp] theorem transport_devAddr (st : Status) (r : Request) (s : State) : (transport st r s).devAddr = s.devAddr := by
  unfold transport; repeat' split
  all_goals rfl
@[simp] theorem transport_phase (st : Status) (r : Request) (s : State) : (transport st r s).phase = s.phase := by
  unfold transport; repeat' split
  all_goals rfl
@[simp] theorem transport_cur (st : Status) (r : Request) (s : State) : (transport st r s).cur = s.cur := by
  unfold transport; repeat' split
  all_goals rfl
@[simp] theorem transport_lat (st : Status) (r : Request) (s : State) : (transport st r s).lat = s.lat := by
  unfold transport; repeat' split
  all_goals rfl
@[simp] theorem transport_rbuf (st : Status) (r : Request) (s : State) : (transport st r s).rbuf = s.rbuf := by
  unfold transport; repeat' split
  all_goals rfl
@[simp] theorem transport_status (st : Status) (r : Request) (s : State) : (transport st r s).status = s.status := by
  unfold transport; repeat' split
  all_goals rfl
@[simp] theorem transport_ill (st : Status) (r : Request) (s : State) : (transport st r s).ill = s.ill := by
  unfold transport; repeat' split
  all_goals rfl
@[simp] theorem transport_bank (st : Status) (r : Request) (s : State) : (transport st r s).bank = s.bank := by
  unfold transport; repeat' split
  all_goals rfl
@[simp] theorem transport_hostData (st : Status) (r : Request) (s : State) : (transport st r s).hostData = s.hostData := by
  unfold transport; repeat' split
  all_goals rfl
@[simp] theorem transport_inputs (st : Status) (r : Request) (s : State) : (transport st r s).inputs = s.inputs := by
  unfold transport; repeat' split
  all_goals rfl

/-- A successful read in the map delivers the registers' bytes. -/
theorem transport_read_ok (dev : BitVec 7) (start : Byte) (n : Nat) (s : State) (h : (Request.read dev start n).inMap = true) :
    transport 0 (.read dev start n) s = { s with bus := .answered 0 (s.mem.readBurst start.toNat n) } := by
  simp [transport, h, succeeded]

/-- A failed read in the map delivers free bytes. -/
theorem transport_read_failed {st : Status} (hs : st ≠ 0) (dev : BitVec 7) (start : Byte) (n : Nat) (s : State)
    (h : (Request.read dev start n).inMap = true) :
    transport st (.read dev start n) s = advanceDraws n { s with bus := .answered st (freeBytes s.draws n) } := by
  simp [transport, h, succeeded_of_ne hs]

/-- A failed write in the map leaves free values in its block. -/
theorem transport_write_failed {st : Status} (hs : st ≠ 0) (dev : BitVec 7) (start : Byte) (w : List Byte) (s : State)
    (h : (Request.write dev start w).inMap = true) :
    transport st (.write dev start w) s = advanceDraws w.length
      { s with bus := .answered st [], mem := s.mem.writeBurst start.toNat (freeBytes s.draws w.length) } := by
  simp [transport, h, succeeded_of_ne hs]

/-- A successful write in the map stores its bytes. -/
theorem transport_write_ok (dev : BitVec 7) (start : Byte) (w : List Byte) (s : State)
    (h : (Request.write dev start w).inMap = true) :
    transport 0 (.write dev start w) s = { s with bus := .answered 0 [], mem := s.mem.writeBurst start.toNat w } := by
  simp [transport, h, succeeded]

/-- Every transaction is answered: with the environment's status inside the map, with status 1 outside; a read delivers as many bytes
as were asked. -/
theorem transport_answers (st : Status) (r : Request) (s : State) :
    ∃ d, (transport st r s).bus = .answered (if r.inMap then st else noDevice) d ∧
      (∀ dev start n, r = .read dev start n → d.length = n) := by
  unfold transport
  cases r with
  | read dev start n =>
    refine ⟨if (Request.read dev start n).inMap ∧ succeeded st then s.mem.readBurst start.toNat n else freeBytes s.draws n, ?_, ?_⟩
    · by_cases h : (Request.read dev start n).inMap <;> by_cases hs : succeeded st <;> simp [h, hs]
    · rintro _ _ _ ⟨⟩
      split <;> simp
  | write dev start w =>
    refine ⟨[], ?_, fun _ _ _ h => nomatch h⟩
    by_cases h : (Request.write dev start w).inMap <;> by_cases hs : succeeded st <;> simp [h, hs]

/-- What a transaction does to the peripheral: a read nothing, a write its own block at most. -/
theorem transport_mem (st : Status) (r : Request) (s : State) :
    (transport st r s).mem = s.mem ∨
      r.inMap = true ∧ ∃ dev start w w', r = .write dev start w ∧ w'.length = w.length ∧
        (transport st r s).mem = s.mem.writeBurst start.toNat w' := by
  unfold transport
  cases r with
  | read dev start n =>
    left
    by_cases h : (Request.read dev start n).inMap <;> by_cases hs : succeeded st <;> simp [h, hs]
  | write dev start w =>
    by_cases h : (Request.write dev start w).inMap
    · right
      refine ⟨h, dev, start, w, if succeeded st then w else freeBytes s.draws w.length, rfl, ?_, ?_⟩
      · split <;> simp
      · by_cases hs : succeeded st <;> simp [h, hs]
    · left; simp [h]

/-! A host write can change the bank alone; a host read what the host is told and the free values' counter. -/

@[simp] theorem hostWrite_devAddr (put : Bank → Bank) (s : State) : (hostWrite put s).devAddr = s.devAddr := by
  unfold hostWrite; split <;> rfl
@[simp] theorem hostWrite_phase (put : Bank → Bank) (s : State) : (hostWrite put s).phase = s.phase := by
  unfold hostWrite; split <;> rfl
@[simp] theorem hostWrite_cur (put : Bank → Bank) (s : State) : (hostWrite put s).cur = s.cur := by
  unfold hostWrite; split <;> rfl
@[simp] theorem hostWrite_bus (put : Bank → Bank) (s : State) : (hostWrite put s).bus = s.bus := by
  unfold hostWrite; split <;> rfl
@[simp] theorem hostWrite_lat (put : Bank → Bank) (s : State) : (hostWrite put s).lat = s.lat := by
  unfold hostWrite; split <;> rfl
@[simp] theorem hostWrite_rbuf (put : Bank → Bank) (s : State) : (hostWrite put s).rbuf = s.rbuf := by
  unfold hostWrite; split <;> rfl
@[simp] theorem hostWrite_status (put : Bank → Bank) (s : State) : (hostWrite put s).status = s.status := by
  unfold hostWrite; split <;> rfl
@[simp] theorem hostWrite_ill (put : Bank → Bank) (s : State) : (hostWrite put s).ill = s.ill := by
  unfold hostWrite; split <;> rfl
@[simp] theorem hostWrite_mem (put : Bank → Bank) (s : State) : (hostWrite put s).mem = s.mem := by
  unfold hostWrite; split <;> rfl
@[simp] theorem hostWrite_hostData (put : Bank → Bank) (s : State) : (hostWrite put s).hostData = s.hostData := by
  unfold hostWrite; split <;> rfl
@[simp] theorem hostWrite_draws (put : Bank → Bank) (s : State) : (hostWrite put s).draws = s.draws := by
  unfold hostWrite; split <;> rfl
@[simp] theorem hostWrite_inputs (put : Bank → Bank) (s : State) : (hostWrite put s).inputs = s.inputs := by
  unfold hostWrite; split <;> rfl

@[simp] theorem hostRead_devAddr (r : BankReg) (s : State) : (hostRead r s).devAddr = s.devAddr := by
  unfold hostRead; repeat' split
  all_goals rfl
@[simp] theorem hostRead_phase (r : BankReg) (s : State) : (hostRead r s).phase = s.phase := by
  unfold hostRead; repeat' split
  all_goals rfl
@[simp] theorem hostRead_cur (r : BankReg) (s : State) : (hostRead r s).cur = s.cur := by
  unfold hostRead; repeat' split
  all_goals rfl
@[simp] theorem hostRead_bus (r : BankReg) (s : State) : (hostRead r s).bus = s.bus := by
  unfold hostRead; repeat' split
  all_goals rfl
@[simp] theorem hostRead_lat (r : BankReg) (s : State) : (hostRead r s).lat = s.lat := by
  unfold hostRead; repeat' split
  all_goals rfl
@[simp] theorem hostRead_rbuf (r : BankReg) (s : State) : (hostRead r s).rbuf = s.rbuf := by
  unfold hostRead; repeat' split
  all_goals rfl
@[simp] theorem hostRead_status (r : BankReg) (s : State) : (hostRead r s).status = s.status := by
  unfold hostRead; repeat' split
  all_goals rfl
@[simp] theorem hostRead_ill (r : BankReg) (s : State) : (hostRead r s).ill = s.ill := by
  unfold hostRead; repeat' split
  all_goals rfl
@[simp] theorem hostRead_bank (r : BankReg) (s : State) : (hostRead r s).bank = s.bank := by
  unfold hostRead; repeat' split
  all_goals rfl
@[simp] theorem hostRead_mem (r : BankReg) (s : State) : (hostRead r s).mem = s.mem := by
  unfold hostRead; repeat' split
  all_goals rfl
@[simp] theorem hostRead_inputs (r : BankReg) (s : State) : (hostRead r s).inputs = s.inputs := by
  unfold hostRead; repeat' split
  all_goals rfl

/-! The labels. -/

/-- With an answer in place the label runs on it. -/
theorem onAnswer_answered {s : State} {st : Status} {d : List Byte} (h : s.bus = .answered st d)
    (label : Status → List Byte → Result) : onAnswer s label = label st d := by
  simp [onAnswer, h]

/-- The end of a command. -/
theorem finish_finished (st : Status) (s : State) : Safety.Finished s (finish st s) st s.bank := by
  simp [Safety.Finished]

theorem pureCommand_idle (f : Byte → Byte) {s : State} (h : s.phase = .idle) :
    pureCommand f s = .next { s with ill := 0, bank := { s.bank with bout := f s.bank.bin } } := by
  simp [pureCommand, h, clearIll]

theorem writeCommand_idle (code start : Byte) (w : List Byte) {s : State} (h : s.phase = .idle) :
    writeCommand code start w s = .next (issue code (.write s.devAddr start w) s) := by
  simp [writeCommand, h]

theorem writeCommand_answered (code start : Byte) (w : List Byte) {s : State} {st : Status} {d : List Byte}
    (h : s.phase = .wait1) (hb : s.bus = .answered st d) : writeCommand code start w s = .next (finish st s) := by
  simp [writeCommand, h, onAnswer_answered hb]

section Read
variable (code start : Byte) (n : Nat) (store : List Byte → State → Option State) (lose : State → State)
variable {s t : State} {st : Status} {d : List Byte}

theorem readCommand_idle (h : s.phase = .idle) :
    readCommand code start n store lose s = .next (issue code (.read s.devAddr start n) s) := by
  simp [readCommand, h]

theorem readCommand_stored (h : s.phase = .wait1) (hb : s.bus = .answered 0 d) (hd : store d s = some t) :
    readCommand code start n store lose s = .next (finish 0 t) := by
  simp only [readCommand, h, onAnswer_answered hb, hd]
  rfl

theorem readCommand_lost (h : s.phase = .wait1) (hb : s.bus = .answered st d) (hs : st ≠ 0) :
    readCommand code start n store lose s = .next (finish st (lose s)) := by
  simp [readCommand, h, onAnswer_answered hb, succeeded_of_ne hs]

end Read

end Sys2Proof.Machine
end

