-- ==== Sys2Proof/Laws/Exec.lean ====
section
/-! SUPPORT. What the meanings can do, said once for all commands: the five ways a label ends, and that the label which waits for an
answer runs on one. -/

namespace Sys2Proof.Machine

open Sys2Proof.Safety

/-- `b` differs from `a` at most in registers that commands write (R36). -/
def KeepsHostOnly (a b : Bank) : Prop := b.bin = a.bin ∧ b.cs.cmask = a.cs.cmask ∧ b.cs.smask = a.cs.smask

/-- The ways in which a label of `i` ends when it ends with a next state. -/
inductive LabelEnd (i : Instr) (s t : State) : Prop where
  /-- No answer has arrived: nothing happens. -/
  | waits (hp : s.phase ≠ .idle) (hb : ∀ st d, s.bus ≠ .answered st d) (ht : t = s)
  /-- A pure command, at issue. -/
  | pure (hp : s.phase = .idle) (hf : firstRequest i = none) (b : Bank) (hb : KeepsHostOnly s.bank b)
      (ht : t = { s with ill := 0, bank := b })
  /-- A bus command, at issue. -/
  | issued (hp : s.phase = .idle) (r : Request) (l : LatBytes) (hr : firstRequest i = some (shapeOf r)) (hd : r.dev = s.devAddr)
      (ht : t = { s with ill := 0, cur := encode i, bus := .pending r, phase := .wait1, lat := l })
  /-- The second request of a command, after a successful first one. -/
  | second (hp : s.phase = .wait1) (d : List Byte) (hb : s.bus = .answered 0 d) (r : Request) (q : RbufBytes)
      (hr : secondRequest i = some (shapeOf r)) (hd : r.dev = s.devAddr)
      (ht : t = { s with bus := .pending r, phase := .wait2, rbuf := q })
  /-- The end of a command. -/
  | ended (hp : s.phase ≠ .idle) (st : Status) (d : List Byte) (hb : s.bus = .answered st d) (b : Bank) (n : Nat)
      (hk : KeepsHostOnly s.bank b) (ht : t = finish st { s with bank := b, draws := n })

theorem pureCommand_end {i : Instr} {f : Byte → Byte} {s t : State} (hf : firstRequest i = none)
    (h : pureCommand f s = .next t) : LabelEnd i s t := by
  cases hp : s.phase
  · rw [pureCommand_idle f hp] at h
    cases h
    exact .pure hp hf { s.bank with bout := f s.bank.bin } ⟨rfl, rfl, rfl⟩ rfl
  all_goals simp [pureCommand, hp] at h

theorem onAnswer_next {s t : State} {label : Status → List Byte → Result} (h : onAnswer s label = .next t) :
    (t = s ∧ ∀ st d, s.bus ≠ .answered st d) ∨ ∃ st d, s.bus = .answered st d ∧ label st d = .next t := by
  cases hb : s.bus <;> simp [onAnswer, hb] at h
  · exact .inl ⟨h.symm, by simp⟩
  · exact .inl ⟨h.symm, by simp⟩
  · exact .inr ⟨_, _, rfl, h⟩

theorem writeCommand_end {i : Instr} {start : Byte} {w : List Byte} {s t : State}
    (hf : firstRequest i = some { dir := .write, start := start, len := w.length })
    (h : writeCommand (encode i) start w s = .next t) : LabelEnd i s t := by
  cases hp : s.phase <;> simp [writeCommand, hp] at h
  · subst h
    exact .issued hp (.write s.devAddr start w) s.lat hf rfl rfl
  · rcases onAnswer_next h with ⟨ht, hb⟩ | ⟨st, d, hb, ht⟩
    · exact .waits (by simp [hp]) hb ht
    · exact .ended (by simp [hp]) st d hb s.bank s.draws ⟨rfl, rfl, rfl⟩ (by simpa using ht.symm)

theorem readCommand_end {i : Instr} {start : Byte} {n : Nat} {store : List Byte → State → Option State} {lose : State → State}
    {s t : State} (hf : firstRequest i = some { dir := .read, start := start, len := n })
    (h : readCommand (encode i) start n store lose s = .next t)
    (hs : ∀ d u, store d s = some u → ∃ b k, KeepsHostOnly s.bank b ∧ u = { s with bank := b, draws := k })
    (hl : ∃ b k, KeepsHostOnly s.bank b ∧ lose s = { s with bank := b, draws := k }) : LabelEnd i s t := by
  cases hp : s.phase <;> simp [readCommand, hp] at h
  · subst h
    exact .issued hp (.read s.devAddr start n) s.lat hf rfl rfl
  · rcases onAnswer_next h with ⟨ht, hb⟩ | ⟨st, d, hb, ht⟩
    · exact .waits (by simp [hp]) hb ht
    · split at ht
      · split at ht
        · rename_i u hu
          obtain ⟨b, k, hk, rfl⟩ := hs d u hu
          exact .ended (by simp [hp]) st d hb b k hk (by simpa using ht.symm)
        · cases ht
      · obtain ⟨b, k, hk, hu⟩ := hl
        rw [hu] at ht
        exact .ended (by simp [hp]) st d hb b k hk (by simpa using ht.symm)

theorem execRmwCs_end {s t : State} (h : execRmwCs s = .next t) : LabelEnd .rmwCs s t := by
  cases hp : s.phase <;> simp only [execRmwCs, hp] at h
  · cases h
    exact .issued hp (.read s.devAddr 0x0E 2) _ rfl rfl rfl
  · rcases onAnswer_next h with ⟨ht, hb⟩ | ⟨st, d, hb, ht⟩
    · exact .waits (by simp [hp]) hb ht
    · split at ht
      · rename_i hst
        split at ht
        · cases ht
          exact .second hp d (by rw [hb, (succeeded_iff st).1 hst]) _ s.rbuf rfl rfl rfl
        · cases ht
      · cases ht
        exact .ended (by simp [hp]) st d hb s.bank s.draws ⟨rfl, rfl, rfl⟩ rfl
  · rcases onAnswer_next h with ⟨ht, hb⟩ | ⟨st, d, hb, ht⟩
    · exact .waits (by simp [hp]) hb ht
    · cases ht
      exact .ended (by simp [hp]) st d hb s.bank s.draws ⟨rfl, rfl, rfl⟩ rfl

theorem execGetEpoch_end {s t : State} (h : execGetEpoch s = .next t) : LabelEnd .getEpoch s t := by
  cases hp : s.phase <;> simp only [execGetEpoch, hp] at h
  · cases h
    exact .issued hp (.read s.devAddr 0x00 3) s.lat rfl rfl rfl
  · rcases onAnswer_next h with ⟨ht, hb⟩ | ⟨st, d, hb, ht⟩
    · exact .waits (by simp [hp]) hb ht
    · split at ht
      · rename_i hst
        split at ht
        · rename_i u hu
          unfold keepTimeBlock at hu
          split at hu
          · cases hu
            cases ht
            exact .second hp _ (by rw [hb, (succeeded_iff st).1 hst]) (.read s.devAddr 0x03 4) _ rfl rfl rfl
          · cases hu
        · cases ht
      · cases ht
        exact .ended (by simp [hp]) st d hb { s.bank with epoch := Config.unspec 64 s.draws } (s.draws + 1) ⟨rfl, rfl, rfl⟩ rfl
  · rcases onAnswer_next h with ⟨ht, hb⟩ | ⟨st, d, hb, ht⟩
    · exact .waits (by simp [hp]) hb ht
    · split at ht
      · split at ht
        · rename_i u hu
          unfold deriveEpoch at hu
          split at hu
          · rename_i tm c _ _
            cases hu
            cases ht
            exact .ended (by simp [hp]) st d hb { s.bank with epoch := epochOf (Config.unspec 64 s.draws) tm c } (s.draws + 1)
              ⟨rfl, rfl, rfl⟩ rfl
          · cases hu
        · cases ht
      · cases ht
        exact .ended (by simp [hp]) st d hb { s.bank with epoch := Config.unspec 64 s.draws } (s.draws + 1) ⟨rfl, rfl, rfl⟩ rfl

/-- Everything a meaning can do when it answers a next state. -/
theorem exec_end {i : Instr} {s t : State} (h : exec i s = .next t) : LabelEnd i s t := by
  cases i with
  | tobcd => exact pureCommand_end rfl h
  | frombcd => exact pureCommand_end rfl h
  | setTime => exact writeCommand_end (i := .setTime) rfl h
  | setCal => exact writeCommand_end (i := .setCal) rfl h
  | setAlarm1 => exact writeCommand_end (i := .setAlarm1) rfl h
  | setAlarm2 => exact writeCommand_end (i := .setAlarm2) rfl h
  | setCs => exact writeCommand_end (i := .setCs) rfl h
  | getTime =>
    simp only [exec, execGetTime] at h
    refine readCommand_end (i := .getTime) rfl h (fun d u hu => ?_)
      ⟨{ s.bank with time := freeTime s.draws }, s.draws + 5, ⟨rfl, rfl, rfl⟩, rfl⟩
    obtain ⟨v, -, rfl⟩ := Option.map_eq_some_iff.1 hu
    exact ⟨{ s.bank with time := v }, s.draws, ⟨rfl, rfl, rfl⟩, rfl⟩
  | getCal =>
    simp only [exec, execGetCal] at h
    refine readCommand_end (i := .getCal) rfl h (fun d u hu => ?_)
      ⟨{ s.bank with cal := freeCal s.draws }, s.draws + 4, ⟨rfl, rfl, rfl⟩, rfl⟩
    obtain ⟨v, -, rfl⟩ := Option.map_eq_some_iff.1 hu
    exact ⟨{ s.bank with cal := v }, s.draws, ⟨rfl, rfl, rfl⟩, rfl⟩
  | getAlarm1 =>
    simp only [exec, execGetAlarm1] at h
    refine readCommand_end (i := .getAlarm1) rfl h (fun d u hu => ?_)
      ⟨{ s.bank with alarm := freeAlarm s.draws }, s.draws + 12, ⟨rfl, rfl, rfl⟩, rfl⟩
    obtain ⟨v, -, rfl⟩ := Option.map_eq_some_iff.1 hu
    exact ⟨{ s.bank with alarm := v }, s.draws + 1, ⟨rfl, rfl, rfl⟩, rfl⟩
  | getAlarm2 =>
    simp only [exec, execGetAlarm2] at h
    refine readCommand_end (i := .getAlarm2) rfl h (fun d u hu => ?_)
      ⟨{ s.bank with alarm := freeAlarm s.draws }, s.draws + 12, ⟨rfl, rfl, rfl⟩, rfl⟩
    obtain ⟨v, -, rfl⟩ := Option.map_eq_some_iff.1 hu
    exact ⟨{ s.bank with alarm := v }, s.draws + 3, ⟨rfl, rfl, rfl⟩, rfl⟩
  | getCs =>
    simp only [exec, execGetCs] at h
    refine readCommand_end (i := .getCs) rfl h (fun d u hu => ?_)
      ⟨(loseCs s).bank, s.draws + 2, ⟨rfl, rfl, rfl⟩, rfl⟩
    obtain ⟨v, -, rfl⟩ := Option.map_eq_some_iff.1 hu
    exact ⟨(storeCs v s).bank, s.draws, ⟨rfl, rfl, rfl⟩, rfl⟩
  | getTemp =>
    simp only [exec, execGetTemp] at h
    refine readCommand_end (i := .getTemp) rfl h (fun d u hu => ?_)
      ⟨(loseTemp s).bank, s.draws + 1, ⟨rfl, rfl, rfl⟩, rfl⟩
    obtain ⟨v, -, rfl⟩ := Option.map_eq_some_iff.1 hu
    exact ⟨{ s.bank with temp := v }, s.draws, ⟨rfl, rfl, rfl⟩, rfl⟩
  | rmwCs => exact execRmwCs_end h
  | getEpoch => exact execGetEpoch_end h

/-! When a label runs. -/

/-- The `ISSUE` label of every command runs. -/
theorem exec_idle (i : Instr) {s : State} (h : s.phase = .idle) : ∃ t, exec i s = .next t := by
  cases i <;> simp [exec, execTobcd, execFrombcd, execSetTime, execSetCal, execSetAlarm1, execSetAlarm2, execSetCs, execGetTime,
    execGetCal, execGetAlarm1, execGetAlarm2, execGetCs, execGetTemp, execRmwCs, execGetEpoch, pureCommand, writeCommand, readCommand, h]

theorem readCommand_runs {code start : Byte} {n : Nat} {store : List Byte → State → Option State} {lose : State → State}
    {s : State} {st : Status} {d : List Byte} (hp : s.phase = .wait1) (hb : s.bus = .answered st d)
    (hs : st = 0 → ∃ u, store d s = some u) : ∃ t, readCommand code start n store lose s = .next t := by
  by_cases h : st = 0
  · obtain ⟨u, hu⟩ := hs h
    subst h
    exact ⟨_, readCommand_stored code start n store lose hp hb hu⟩
  · exact ⟨_, readCommand_lost code start n store lose hp hb h⟩

/-- The label that waits for the answer of a request runs on it: with as many bytes as the request asked for, if it is a read. -/
theorem exec_answered {i : Instr} {s : State} {st : Status} {d : List Byte} {q : Shape} (hb : s.bus = .answered st d)
    (hq : requestIn s.phase i = some q) (hd : q.dir = .read → d.length = q.len) : ∃ t, exec i s = .next t := by
  cases hp : s.phase with
  | idle => simp [requestIn, hp] at hq
  | wait1 =>
    simp only [requestIn, hp] at hq
    cases i with
    | tobcd => cases hq
    | frombcd => cases hq
    | setTime => exact ⟨_, writeCommand_answered _ _ _ hp hb⟩
    | setCal => exact ⟨_, writeCommand_answered _ _ _ hp hb⟩
    | setAlarm1 => exact ⟨_, writeCommand_answered _ _ _ hp hb⟩
    | setAlarm2 => exact ⟨_, writeCommand_answered _ _ _ hp hb⟩
    | setCs => exact ⟨_, writeCommand_answered _ _ _ hp hb⟩
    | getTime =>
      cases hq
      obtain ⟨a, b, c, rfl⟩ := List.length_eq_three.1 (hd rfl)
      simp only [exec, execGetTime]
      exact readCommand_runs hp hb fun _ => ⟨_, rfl⟩
    | getCal =>
      cases hq
      match d, hd rfl with
      | [a, b, c, e], _ =>
        simp only [exec, execGetCal]
        exact readCommand_runs hp hb fun _ => ⟨_, rfl⟩
    | getAlarm1 =>
      cases hq
      match d, hd rfl with
      | [a, b, c, e], _ =>
        simp only [exec, execGetAlarm1]
        exact readCommand_runs hp hb fun _ => ⟨_, rfl⟩
    | getAlarm2 =>
      cases hq
      obtain ⟨a, b, c, rfl⟩ := List.length_eq_three.1 (hd rfl)
      simp only [exec, execGetAlarm2]
      exact readCommand_runs hp hb fun _ => ⟨_, rfl⟩
    | getCs =>
      cases hq
      obtain ⟨a, b, rfl⟩ := List.length_eq_two.1 (hd rfl)
      simp only [exec, execGetCs]
      exact readCommand_runs hp hb fun _ => ⟨_, rfl⟩
    | getTemp =>
      cases hq
      obtain ⟨a, b, rfl⟩ := List.length_eq_two.1 (hd rfl)
      simp only [exec, execGetTemp]
      exact readCommand_runs hp hb fun _ => ⟨_, rfl⟩
    | rmwCs =>
      cases hq
      obtain ⟨a, b, rfl⟩ := List.length_eq_two.1 (hd rfl)
      simp only [exec, execRmwCs, hp, onAnswer_answered hb]
      split <;> exact ⟨_, rfl⟩
    | getEpoch =>
      cases hq
      obtain ⟨a, b, c, rfl⟩ := List.length_eq_three.1 (hd rfl)
      simp only [exec, execGetEpoch, hp, onAnswer_answered hb]
      split <;> exact ⟨_, rfl⟩
  | wait2 =>
    simp only [requestIn, hp] at hq
    cases i with
    | rmwCs => simp only [exec, execRmwCs, hp, onAnswer_answered hb]; exact ⟨_, rfl⟩
    | getEpoch =>
      cases hq
      match d, hd rfl with
      | [a, b, c, e], _ =>
        simp only [exec, execGetEpoch, hp, onAnswer_answered hb]
        split <;> exact ⟨_, rfl⟩
    | _ => cases hq

end Sys2Proof.Machine
end

