-- ==== Sys2Proof/Laws/PerInstr.lean ====
section
/-! SUPPORT. Per command: its code decodes to it on every block that has it (spec/30_encoding.md R101, R103, R104). -/

namespace Sys2Proof.Laws.CodeDecodes

/-- The code of `i` decodes to `i` on every block whose options have `i`. -/
def Statement (i : Instr) : Prop := ∀ o : Options, WellFormed o i → decodeWith o (encode i) = .command i

theorem tobcd : Statement .tobcd := fun _ _ => rfl

theorem frombcd : Statement .frombcd := fun _ _ => rfl

theorem setTime : Statement .setTime := fun _ _ => rfl

theorem getTime : Statement .getTime := fun _ _ => rfl

theorem setCal : Statement .setCal := fun _ _ => rfl

theorem getCal : Statement .getCal := fun _ _ => rfl

theorem setAlarm1 : Statement .setAlarm1 := fun _ _ => rfl

theorem getAlarm1 : Statement .getAlarm1 := fun _ _ => rfl

theorem setAlarm2 : Statement .setAlarm2 := fun _ _ => rfl

theorem getAlarm2 : Statement .getAlarm2 := fun _ _ => rfl

theorem setCs : Statement .setCs := fun _ _ => rfl

theorem getCs : Statement .getCs := fun _ _ => rfl

theorem rmwCs : Statement .rmwCs := fun _ h => if_pos h

theorem getTemp : Statement .getTemp := fun _ _ => rfl

theorem getEpoch : Statement .getEpoch := fun _ h => if_pos h

end Sys2Proof.Laws.CodeDecodes
end

