-- ==== Sys2Proof/Laws/Step.lean ====
section
/-! SUPPORT. Taking steps apart: one entry of the schedule at a time. -/

namespace Sys2Proof.Safety

open Sys2Proof.Machine

theorem steps_zero (s : State) : steps 0 s = .next s := rfl

/-- A step that answers a next state is the first of `k + 1`. -/
theorem steps_next {s t : State} (h : step s = .next t) (k : Nat) : steps (k + 1) s = steps k t := by
  have hc : Sys2Proof.core.step s = .next t := h
  simp only [steps, Host.Core.run, hc]
  rfl

/-- A step that stops with a fault is the last one. -/
theorem steps_fault {s : State} {f : Fault} (h : step s = .fault f) (k : Nat) : steps (k + 1) s = .fault f := by
  have hc : Sys2Proof.core.step s = .fault f := h
  simp only [steps, Host.Core.run, hc]
  rfl

/-- A step that refuses is the last one. -/
theorem steps_refused {s : State} {r : Refusal} (h : step s = .refused r) (k : Nat) : steps (k + 1) s = .refused r := by
  have hc : Sys2Proof.core.step s = .refused r := h
  simp only [steps, Host.Core.run, hc]
  rfl

theorem step_nil {s : State} (h : s.inputs = []) : step s = .next s := by simp [step, h]

theorem step_cons {s : State} {x : Input} {rest : List Input} (h : s.inputs = x :: rest) :
    step s = handle x { s with inputs := rest } := by simp [step, h]

end Sys2Proof.Safety
end

