-- ==== Sys2Proof/Tests/Slice0.lean ====
section
/-! SUPPORT. Tests. Expected results are the tables of spec/95_test_vectors.md (V1 to V11, P1 to P8) and the words of R101;
`test_meets_<Name>` shows that the hypotheses of `Obligations.<Name>` can be met together, clause by clause. -/

namespace Sys2Proof.Tests

open Sys2Proof.Machine Sys2Proof.Safety

/-! Helpers -/

/-- The machine after reset with a schedule. -/
def idleWith (xs : List Input) : State := { State.reset with inputs := xs }

/-- A peripheral register's address. -/
def reg (a : Nat) (h : a < Config.nreg := by decide) : Fin Config.nreg := ⟨a, h⟩

/-- The machine waiting in phase `p` for the answer to `r` inside the command of code `c`. -/
def waitingFor (p : Phase) (c : Byte) (r : Request) (xs : List Input) : State :=
  { State.reset with phase := p, cur := c, bus := .pending r, inputs := xs }

/-- The machine inside the step that delivers an answer. -/
def answeredWith (p : Phase) (st : Status) (d : List Byte) : State :=
  { State.reset with phase := p, bus := .answered st d }

/-- What `f` sees after one step. -/
def seen {α : Type} (s : State) (f : State → α) : Option α := (nextOf (step s)).map f

/-- The host issues the command of code `c` over a bank. -/
def issuing (c : Byte) (b : Bank) : State := { idleWith [.cmd c] with bank := b }

/-- The transport answers with `st` to the request `r` of the command of code `c`, over a bank and the peripheral registers. -/
def answering (p : Phase) (c : Byte) (r : Request) (st : Status) (b : Bank) (m : Memory) : State :=
  { waitingFor p c r [.answer st] with bank := b, mem := m }

/-! WellFormed: the two checks, each refusing an ill-formed term (R103). -/

theorem test_wellFormed_refuses_getEpoch : ¬ WellFormed { hasEpoch := false, hasRmwCs := true } .getEpoch := by decide

theorem test_wellFormed_refuses_rmwCs : ¬ WellFormed { hasEpoch := true, hasRmwCs := false } .rmwCs := by decide

theorem test_wellFormed_accepts (i : Instr) : WellFormed Config.options i := by cases i <;> decide

/-! Decoding: the words of R101, format C: bits 7:5 zero, bit 4 the group, bits 3:0 the operation. -/

theorem test_decode_pure : decode 0b00000001 = .command .tobcd ∧ decode 0b00000010 = .command .frombcd := by decide

theorem test_decode_set :
    decode 0b00010000 = .command .setTime ∧ decode 0b00010010 = .command .setCal ∧ decode 0b00010100 = .command .setAlarm1 ∧
      decode 0b00010110 = .command .setAlarm2 ∧ decode 0b00011000 = .command .setCs ∧ decode 0b00011010 = .command .rmwCs := by
  decide

theorem test_decode_get :
    decode 0b00010001 = .command .getTime ∧ decode 0b00010011 = .command .getCal ∧ decode 0b00010101 = .command .getAlarm1 ∧
      decode 0b00010111 = .command .getAlarm2 ∧ decode 0b00011001 = .command .getCs ∧ decode 0b00011011 = .command .getTemp ∧
      decode 0b00011101 = .command .getEpoch := by
  decide

/-- V11: the reserved codes it names. -/
theorem test_decode_reserved :
    decode 0x00 = .reserved .pureGroup ∧ decode 0x03 = .reserved .pureGroup ∧ decode 0x0F = .reserved .pureGroup ∧
      decode 0x1C = .reserved .busGroup ∧ decode 0x1E = .reserved .busGroup ∧ decode 0x1F = .reserved .busGroup ∧
      decode 0x20 = .reserved .highBits ∧ decode 0x80 = .reserved .highBits ∧ decode 0xFF = .reserved .highBits := by
  decide

theorem test_decode_alarm_bit : (decode 0x14, decode 0x16) = (.command .setAlarm1, .command .setAlarm2) := by decide

theorem test_encode_codes :
    encode .tobcd = 0b00000001 ∧ encode .setAlarm2 = 0b00010110 ∧ encode .rmwCs = 0b00011010 ∧ encode .getEpoch = 0b00011101 := by
  decide

theorem test_tableWord : decodeTableWord 8 0b00011011 = some .getTemp ∧ decodeTableWord 8 0b00011100 = none := by decide

theorem test_fetchWord :
    nextOf (step (State.reset.withFetchWord 8 0b00000001)) = nextOf (exec .tobcd State.reset) ∧
      (nextOf (step (State.reset.withFetchWord 8 0b00010011))).map (fun t => (t.phase, t.bus)) =
        some (.wait1, .pending (.read 0x68 0x03 4)) := by
  decide

/-! Field functions: V3, V4, V5, V8. -/

theorem test_seconds_field :
    (encSm 59, encSm 79, encSm 80, encSm 99, encSm 255) = (0x59, 0x79, 0x00, 0x19, 0x15) ∧
      (decSm 0x59, decSm 0xD9, decSm 0x6A, decSm 0xFF) = (59, 59, 70, 85) := by
  decide

theorem test_hour_field :
    (encHr 23 0 1, encHr 39 0 0, encHr 40 0 0, encHr 7 1 1, encHr 12 1 0, encHr 19 1 1, encHr 20 1 0) =
        (0x23, 0x39, 0x00, 0x67, 0x52, 0x79, 0x40) ∧
      (decHr 0xA3, decHr 0x3F, decHr 0x67, decHr 0xF2, decHr 0x5F) =
        ((23, 0, 0), (45, 0, 0), (7, 1, 1), (12, 1, 1), (25, 1, 0)) := by
  decide

theorem test_alarm_fields :
    (encAsm 1 80, encAhr 1 11 1 0, encAdd 0 1 3 17, encAdd 1 0 0 31, encAdd 0 0 0 40, encAdd 0 1 39 0) =
        (0x80, 0xD1, 0x43, 0xB1, 0x00, 0x79) ∧
      decAhr 0xD1 = (1, 11, 1, 0) ∧ (∀ u : Byte, decAdd u 0xB1 = (1, 0, u, 31)) ∧ ∀ u : Byte, decAdd u 0xC7 = (1, 1, 7, u) := by
  decide

theorem test_merge : (merge 0x1C 0x05 0x07, merge 0x8B 0x00 0x03, merge 0xAA 0x55 0x0F) = (0x1D, 0x88, 0xA5) := by decide

/-! The pure commands: V1, V2. -/

theorem test_tobcd :
    seen (issuing 0x01 { Bank.atReset with bin := 200 }) (fun t => (t.bank.bout, t.bank.bin, t.status, t.ill, t.phase)) =
      some (0x40, 200, 0, 0, .idle) := by
  decide

theorem test_frombcd :
    seen (issuing 0x02 { Bank.atReset with bin := 0xFF }) (fun t => (t.bank.bout, t.bus)) = some (165, .quiet) := by decide

/-! The write commands, at issue and at the answer: V6, V7, V8, V11, P2. -/

theorem test_setTime :
    seen (issuing 0x10 { Bank.atReset with time := { sec := 5, min := 30, hr := 11, mode := 1, ampm := 1 } })
      (fun t => (t.bus, t.phase)) = some (.pending (.write 0x68 0x00 [0x05, 0x30, 0x71]), .wait1) := by
  decide

/-- V11: a failed write, the status passed through, no retry. -/
theorem test_setTime_fails (st : Status) :
    (nextOf (exec .setTime (answeredWith .wait1 st []))).map (fun t => (t.status, t.phase, t.bus, t.bank)) =
      some (st, .idle, .quiet, Bank.atReset) := rfl

theorem test_setCal :
    seen (issuing 0x12 { Bank.atReset with cal := { day := 7, date := 31, month := 92, year := 99 } }) (fun t => t.bus) =
      some (.pending (.write 0x68 0x03 [0x07, 0x31, 0x92, 0x99])) := by
  decide

theorem test_setAlarm1 :
    seen (issuing 0x14 { Bank.atReset with alarm :=
        { sec := 15, min := 45, hr := 8, day := 3, date := 25, am1 := 1, am2 := 0, am3 := 1, am4 := 0, dydt := 0, mode := 0
          ampm := 0 } })
      (fun t => t.bus) = some (.pending (.write 0x68 0x07 [0x95, 0x45, 0x88, 0x25])) := by
  decide

theorem test_setAlarm2 :
    seen (issuing 0x16 { Bank.atReset with alarm :=
        { sec := 99, min := 30, hr := 7, day := 3, date := 17, am1 := 1, am2 := 0, am3 := 0, am4 := 0, dydt := 1, mode := 1
          ampm := 1 } })
      (fun t => t.bus) = some (.pending (.write 0x68 0x0B [0x30, 0x67, 0x43])) := by
  decide

/-- P2: the answer stores the three bytes and leaves Alarm 1 alone. -/
theorem test_setAlarm2_stores :
    seen (answering .wait1 0x16 (.write 0x68 0x0B [0x30, 0x67, 0x43]) 0 Bank.atReset [(7, 0x11), (8, 0x22), (9, 0x33), (10, 0x44)])
      (fun t => (t.mem, t.status)) =
      some ([(7, 0x11), (8, 0x22), (9, 0x33), (10, 0x44), (11, 0x30), (12, 0x67), (13, 0x43)], 0) := by
  decide

theorem test_setCs :
    seen (issuing 0x18 { Bank.atReset with cs := { ctl := 0xA5, stat := 0x5A, cmask := 0, smask := 0 } }) (fun t => t.bus) =
      some (.pending (.write 0x68 0x0E [0xA5, 0x5A])) := by
  decide

/-- P4: the read's answer leads to the merged write. -/
theorem test_rmwCs :
    seen { answering .wait1 0x1A (.read 0x68 0x0E 2) 0 Bank.atReset [(14, 0x1C), (15, 0x8B)] with
        lat := { b0 := 0x05, b1 := 0x00, b2 := 0x07, b3 := 0x03 } }
      (fun t => (t.bus, t.phase)) = some (.pending (.write 0x68 0x0E [0x1D, 0x88]), .wait2) := by
  decide

/-- V8: a failed read, no write. -/
theorem test_rmwCs_read_fails (st : Status) (h : st ≠ 0) :
    (nextOf (exec .rmwCs (answeredWith .wait1 st [0, 0]))).map (fun t => (t.mem, t.status, t.phase, t.bus)) =
      some ([], st, .idle, .quiet) := by
  simp [exec, execRmwCs, answeredWith, onAnswer, succeeded_of_ne h, nextOf, State.reset]

/-! The read commands, at the answer: V7, V9, V11. -/

theorem test_getTime :
    seen (answering .wait1 0x11 (.read 0x68 0x00 3) 0 Bank.atReset [(0, 0x85), (1, 0xB0), (2, 0x72)]) (fun t => t.bank.time) =
      some { sec := 5, min := 30, hr := 12, mode := 1, ampm := 1 } := by
  decide

theorem test_getTime_fails (st : Status) (h : st ≠ 0) :
    (nextOf (exec .getTime (answeredWith .wait1 st [1, 2, 3]))).map (fun t => (t.status, t.phase, t.bank.cal)) =
      some (st, .idle, Bank.atReset.cal) := by
  simp [exec, execGetTime, readCommand, answeredWith, onAnswer, succeeded_of_ne h, nextOf, State.reset, loseTime, storeTime]

theorem test_getCal :
    seen (answering .wait1 0x13 (.read 0x68 0x03 4) 0 Bank.atReset [(3, 0xFF), (5, 0x1A), (6, 0xA0)]) (fun t => t.bank.cal) =
      some { day := 165, date := 0, month := 20, year := 100 } := by
  decide

theorem test_getAlarm1 :
    seen (answering .wait1 0x15 (.read 0x68 0x07 4) 0 Bank.atReset [(7, 0xD9), (8, 0xB0), (9, 0xF2), (10, 0xC7)])
      (fun t => { t.bank.alarm with date := 0 }) =
      some { sec := 59, min := 30, hr := 12, day := 7, date := 0, am1 := 1, am2 := 1, am3 := 1, am4 := 1, dydt := 1, mode := 1
             ampm := 1 } := by
  decide

theorem test_getAlarm2 :
    seen (answering .wait1 0x17 (.read 0x68 0x0B 3) 0 Bank.atReset [(11, 0x80), (12, 0x80), (13, 0x80)])
      (fun t => { t.bank.alarm with sec := 0, am1 := 0, day := 0 }) =
      some { sec := 0, min := 0, hr := 0, day := 0, date := 0, am1 := 0, am2 := 1, am3 := 1, am4 := 1, dydt := 0, mode := 0
             ampm := 0 } := by
  decide

theorem test_getCs :
    seen (answering .wait1 0x19 (.read 0x68 0x0E 2) 0 { Bank.atReset with cs := { ctl := 1, stat := 2, cmask := 7, smask := 3 } }
        [(14, 0x1C), (15, 0x88)])
      (fun t => t.bank.cs) = some { ctl := 0x1C, stat := 0x88, cmask := 7, smask := 3 } := by
  decide

theorem test_getTemp :
    seen (answering .wait1 0x1B (.read 0x68 0x11 2) 0 Bank.atReset [(17, 0x19), (18, 0x7F)]) (fun t => t.bank.temp) = some 0x197F := by
  decide

/-! The epoch: V10, P7. -/

/-- 2024-02-29 11:59:58 PM. -/
theorem test_getEpoch :
    seen { answering .wait2 0x1D (.read 0x68 0x03 4) 0 Bank.atReset [(3, 0x05), (4, 0x29), (5, 0x02), (6, 0x24)] with
        rbuf := { b0 := 0x58, b1 := 0x59, b2 := 0x71 } }
      (fun t => (t.bank.epoch, t.bank.time)) = some (1709251198, Bank.atReset.time) := by
  decide

/-- P7: the calendar has moved on since the time was read. -/
theorem test_getEpoch_torn :
    seen { answering .wait2 0x1D (.read 0x68 0x03 4) 0 Bank.atReset [(3, 0x04), (4, 0x01), (5, 0x01), (6, 0x26)] with
        rbuf := { b0 := 0x59, b1 := 0x59, b2 := 0x23 } }
      (fun t => (t.bank.epoch, t.status)) = some (1767311999, 0) := by
  decide

theorem test_days :
    daysOf 1 1 0 = 10957 ∧ daysOf 29 2 0 = 11016 ∧ daysOf 29 2 1 = 11382 ∧ daysOf 0 1 0 = 10956 ∧ daysOf 29 2 100 = 47541 ∧
      daysOf 165 12 165 = 71721 := by
  decide

theorem test_hour24 :
    (hour24 12 1 0, hour24 12 1 1, hour24 1 1 1, hour24 13 1 0, hour24 45 0 0) = (0, 12, 13, 1, 45) := by decide

/-! The host port and the stops. -/

/-- V11: a reserved code sets `ILL` and nothing else. -/
theorem test_illegal : seen (idleWith [.cmd 0x1C]) (fun t => (t.ill, t.phase, t.status, t.bus)) = some (1, .idle, 0, .quiet) := by decide

theorem test_busy_writes_ignored :
    seen (waitingFor .wait1 0x11 (.read 0x68 0x00 3) [.cmd 0x1C]) (fun t => (t.ill, t.cur, busy t)) = some (0, 0x11, 1) ∧
      seen (waitingFor .wait1 0x11 (.read 0x68 0x00 3) [.wrByte .bin 7]) (fun t => t.bank.bin) = some 0 := by
  decide

/-- R39: the registers the host can only read. -/
theorem test_host_reads (st : Status) :
    seen { idleWith [.rd .status] with status := st } (fun t => t.hostData) = some st.toNat ∧
      seen { idleWith [.rd .ill] with ill := 1 } (fun t => t.hostData) = some 1 ∧
      seen { idleWith [.rd .bout] with bank := { Bank.atReset with bout := 0x42 } } (fun t => t.hostData) = some 0x42 ∧
      seen { idleWith [.rd .temp] with bank := { Bank.atReset with temp := 0x1940 } } (fun t => t.hostData) = some 0x1940 ∧
      seen { idleWith [.rd .epoch] with bank := { Bank.atReset with epoch := 0x38BBB4C0 } } (fun t => t.hostData) = some 951825600 :=
  ⟨rfl, rfl, rfl, rfl, rfl⟩

theorem test_host_port :
    seen (idleWith [.wrByte .bin 42]) (fun t => t.bank.bin) = some 42 ∧
      seen (issuing 0x01 Bank.atReset) (fun t => busy t) = some 0 ∧
      seen (waitingFor .wait1 0x11 (.read 0x68 0x00 3) [.rd .busy]) (fun t => t.hostData) = some 1 := by
  decide

/-- R106: the pseudo-command of P3 is these four host writes. -/
theorem test_ldCal :
    ldCal { day := 3, date := 29, month := 2, year := 0 } =
      [.wrByte .cDay 3, .wrByte .cDate 29, .wrByte .cMonth 2, .wrByte .cYear 0] := by
  decide

theorem test_unsolicited : step (idleWith [.answer 0]) = .fault .unsolicitedAnswer := rfl

/-- P5 and P6 as schedules: the second request fails, and the first of `GET_EPOCH`. -/
theorem test_servedBy (st : Status) (h : st ≠ 0) :
    servedBy (simRFFail 2 st) 1 [.setTime, .getTime, .tobcd] = [.cmd 0x10, .answer 0, .cmd 0x11, .answer st, .cmd 0x01] ∧
      servedBy (simRFFail 1 st) 1 [.getEpoch] = [.cmd 0x1D, .answer st] ∧
      servedBy simRF 1 [.rmwCs] = [.cmd 0x1A, .answer 0, .answer 0] := by
  simp [servedBy, answersOf, simRFFail, simRF, encode, succeeded_of_ne h]

/-! Hypotheses that can be met. -/

/-- A block waiting for the first answer of `GET_EPOCH`. -/
def waiting1 (xs : List Input) : State := waitingFor .wait1 0x1D (.read 0x68 0x00 3) xs

/-- A block waiting for the second answer of `RMW_CS`. -/
def waiting2 (xs : List Input) : State := waitingFor .wait2 0x1A (.write 0x68 0x0E [1, 2]) xs

theorem test_meets_DecodeAndEncodeAgree : WellFormed Config.options .getEpoch ∧ encode .getEpoch = 0x1D := by decide

theorem test_meets_StepKeepsInvariant :
    (Inv (idleWith [.cmd 0x11]) ∧ ∃ t, step (idleWith [.cmd 0x11]) = .next t) ∧
      (Inv (waiting1 [.answer 0]) ∧ ∃ t, step (waiting1 [.answer 0]) = .next t) ∧
      Inv (waiting2 [.answer 0]) ∧ ∃ t, step (waiting2 [.answer 0]) = .next t :=
  ⟨⟨by decide, _, rfl⟩, ⟨by decide, _, rfl⟩, by decide, _, rfl⟩

theorem test_meets_StepRunsTheIssuedCommand :
    WellFormed Config.options .setCs ∧ (idleWith [.cmd 0x18]).phase = .idle ∧
      (idleWith [.cmd 0x18]).inputs = .cmd (encode .setCs) :: [] := by
  decide

theorem test_meets_ReservedCodeRaisesIllegal :
    (idleWith [.cmd 0x1C]).phase = .idle ∧ (idleWith [.cmd 0x1C]).inputs = .cmd 0x1C :: [] ∧
      ∀ c ∈ ([0x00, 0x03, 0x0F, 0x1C, 0x1E, 0x1F, 0x20, 0xFF] : List Byte),
        c ∉ ([0x01, 0x02, 0x10, 0x11, 0x12, 0x13, 0x14, 0x15, 0x16, 0x17, 0x18, 0x19, 0x1A, 0x1B, 0x1D] : List Byte) := by
  decide

theorem test_meets_BusyIgnoresHostWrites :
    (waiting1 []).phase ≠ .idle ∧ (waiting1 [.cmd 0x01]).inputs = .cmd 0x01 :: [] ∧
      (waiting1 [.wrByte .bin 1]).inputs = .wrByte .bin 1 :: [] ∧ (waiting1 [.wrBit .tMode 1]).inputs = .wrBit .tMode 1 :: [] := by
  decide

theorem test_meets_BusyWaitsForItsAnswer :
    (waiting1 []).phase ≠ .idle ∧ (waiting1 []).inputs = [] ∧ (waiting2 [.rd .bin]).phase ≠ .idle ∧
      (waiting2 [.rd .bin]).inputs = .rd .bin :: [] ∧ ∀ st, Input.rd .bin ≠ .answer st :=
  ⟨by decide, rfl, by decide, rfl, fun _ h => (nomatch h)⟩

theorem test_meets_AnswerRunsTheWaitingLabel :
    (waiting1 [.answer noDevice]).bus = .pending (.read 0x68 0x00 3) ∧ decode (waiting1 [.answer noDevice]).cur = .command .getEpoch ∧
      (waiting1 [.answer noDevice]).inputs = .answer noDevice :: [] :=
  ⟨rfl, rfl, rfl⟩

theorem test_meets_AnswerWithoutRequestStops :
    (∀ r, (idleWith [.answer 0]).bus ≠ .pending r) ∧ (idleWith [.answer 0]).inputs = .answer 0 :: [] :=
  ⟨fun _ h => (nomatch h), rfl⟩

/-- The last register, 0x12, is in the map, and a burst that passes it is not. -/
theorem test_meets_ReadTransactionDelivers :
    (Request.read 0x68 0x11 2).inMap = true ∧ (Request.read 0x68 0x00 19).inMap = true ∧ 1 < 2 := by decide

theorem test_meets_WriteTransactionStores :
    (Request.write 0x68 0x11 [1, 2]).inMap = true ∧ (Request.write 0x68 0x12 [1, 2]).inMap = false ∧
      (Request.write 0x69 0x00 [1]).inMap = false ∧ Outside 0x11 2 0x10 ∧ Outside 0x0E 2 0x10 := by
  unfold Outside; decide

theorem test_meets_EnvironmentChangesOneRegister :
    (waiting1 [.regChange (reg 18) 5]).inputs = .regChange (reg 18) 5 :: [] ∧ 3 ≠ (reg 18).val := by decide

theorem test_meets_HostReadsARegister :
    (idleWith [.rd .epoch]).inputs = .rd .epoch :: [] ∧ (idleWith []).phase = .idle ∧ BankReg.epoch ≠ .cmd ∧
      (waiting1 [.rd .busy]).inputs = .rd .busy :: [] ∧ (waiting1 [.rd .bout]).phase ≠ .idle ∧ BankReg.bout ≠ .busy := by
  decide

theorem test_meets_bankTable :
    (BankReg.status, Config.statusW, 0) ∈ bankTable State.reset ∧ (BankReg.epoch, 64, 0) ∈ bankTable State.reset ∧
      (BankReg.busy, 1, 1) ∈ bankTable (waiting1 []) := by
  simp [bankTable, singleRows, State.reset, Bank.atReset, waiting1, waitingFor]

theorem test_meets_HostWritesOneRegister :
    (idleWith [.wrByte .csSmask 9]).phase = .idle ∧ (idleWith [.wrByte .csSmask 9]).inputs = .wrByte .csSmask 9 :: [] ∧
      (idleWith [.wrBit .aAmpm 1]).inputs = .wrBit .aAmpm 1 :: [] ∧ BankReg.aMode ≠ bitRegName .aAmpm := by
  decide

theorem test_meets_ToBcdCommand : (idleWith []).phase = .idle := rfl

theorem test_meets_FromBcdCommand : (idleWith []).phase = .idle := rfl

theorem test_meets_CodecRoundTrips : (159 : Byte).toNat < 160 ∧ 160 ≤ (160 : Byte).toNat ∧ (255 : Byte).toNat - 160 = 95 := by decide

/-- The clauses of `IsWriteCommand` and `IsReadCommand`: at issue, with an answer, and from issue to answer. -/
theorem test_meets_commands :
    (idleWith []).phase = .idle ∧
      ((answeredWith .wait1 noDevice []).phase = .wait1 ∧ (answeredWith .wait1 noDevice []).bus = .answered noDevice []) ∧
      ((answeredWith .wait1 0 [1, 2, 3]).phase = .wait1 ∧ (answeredWith .wait1 0 [1, 2, 3]).bus = .answered 0 [1, 2, 3]) ∧
      ((idleWith [.cmd 0x10, .answer noDevice]).devAddr = Config.devAddr ∧
        (idleWith [.cmd 0x10, .answer noDevice]).inputs = .cmd 0x10 :: .answer noDevice :: []) ∧
      noDevice ≠ 0 ∧ Outside 0x00 3 0x03 :=
  ⟨rfl, ⟨rfl, rfl⟩, ⟨rfl, rfl⟩, ⟨rfl, rfl⟩, noDevice_ne_zero, .inr (by decide)⟩

theorem test_meets_SetCalCommand : 1 ≤ (1 : Byte).toNat ∧ (12 : Byte).toNat ≤ 12 ∧ encCal
    { day := 1, date := 1, month := 12, year := 0 } = [0x01, 0x01, 0x12, 0x00] := by decide

theorem test_meets_SetAlarm1Command : ({ Bank.atReset.alarm with dydt := 1 } : Alarm).dydt = 1 ∧ Bank.atReset.alarm.dydt = 0 ∧
    Bank.atReset.alarm.mode = 0 := by decide

theorem test_meets_RmwCsCommand :
    ((answeredWith .wait1 0 [0x1C, 0x88]).bus = .answered 0 [0x1C, 0x88] ∧ (answeredWith .wait1 0 [0x1C, 0x88]).phase = .wait1) ∧
      ((answeredWith .wait1 noDevice [0, 0]).bus = .answered noDevice [0, 0] ∧ noDevice ≠ 0) ∧
      ((answeredWith .wait2 noDevice []).phase = .wait2 ∧ (answeredWith .wait2 noDevice []).bus = .answered noDevice []) ∧
      (idleWith [.cmd 0x1A, .answer 0, .answer 0]).inputs = .cmd 0x1A :: .answer 0 :: .answer 0 :: [] ∧ Outside 0x0E 2 0x10 :=
  ⟨⟨rfl, rfl⟩, ⟨rfl, noDevice_ne_zero⟩, ⟨rfl, rfl⟩, rfl, .inr (by decide)⟩

theorem test_meets_GetTimeCommand : ∃ v, decTime [0x00, 0x00, 0x23] = some v ∧ v.mode = 0 := ⟨_, rfl, by decide⟩

theorem test_meets_GetAlarm1Command :
    (∃ v, decAlarm1 9 [0, 0, 0, 0x43] = some v ∧ v.dydt = 1) ∧ ∃ v, decAlarm1 9 [0, 0, 0, 0x17] = some v ∧ v.dydt = 0 :=
  ⟨⟨_, rfl, by decide⟩, _, rfl, by decide⟩

theorem test_meets_GetAlarm2Command :
    (∃ v, decAlarm2 9 8 1 [0, 0, 0x43] = some v ∧ v.dydt = 1) ∧ ∃ v, decAlarm2 9 8 1 [0, 0, 0x17] = some v ∧ v.dydt = 0 :=
  ⟨⟨_, rfl, by decide⟩, _, rfl, by decide⟩

theorem test_meets_GetEpochCommand :
    ((answeredWith .wait1 0 [0x59, 0x59, 0x23]).phase = .wait1 ∧
        (answeredWith .wait1 0 [0x59, 0x59, 0x23]).bus = .answered 0 [0x59, 0x59, 0x23]) ∧
      ((answeredWith .wait2 noDevice [0, 0, 0, 0]).bus = .answered noDevice [0, 0, 0, 0] ∧ noDevice ≠ 0) ∧
      ((answeredWith .wait2 0 [4, 1, 0x12, 0x26]).phase = .wait2 ∧ [4, 1, 0x12, 0x26].length = 4) ∧
      (decCal [4, 1, 0x12, 0x26] = some { day := 4, date := 1, month := 12, year := 26 }) ∧
      (idleWith [.cmd 0x1D, .answer 0, .answer 0]).inputs = .cmd 0x1D :: .answer 0 :: .answer 0 :: [] :=
  ⟨⟨rfl, rfl⟩, ⟨rfl, noDevice_ne_zero⟩, ⟨rfl, rfl⟩, by decide, rfl⟩

theorem test_meets_EncodedTimeBytes :
    ({ Bank.atReset.time with mode := 1 } : Time).mode = 1 ∧ Bank.atReset.time.mode = 0 := by decide

theorem test_meets_DecodedTimeFields :
    (∃ t, decTime [0, 0, 0x72] = some t ∧ t.mode = 1) ∧ ∃ t, decTime [0, 0, 0x23] = some t ∧ t.mode = 0 :=
  ⟨⟨_, rfl, by decide⟩, _, rfl, by decide⟩

theorem test_meets_EncodedAlarmBytes :
    ({ Bank.atReset.alarm with mode := 1 } : Alarm).mode = 1 ∧ Bank.atReset.alarm.mode = 0 := by decide

theorem test_meets_DecodedAlarmFields :
    (∃ a, decAlarm1 9 [0, 0, 0x72, 0x43] = some a ∧ a.mode = 1 ∧ a.dydt = 1) ∧
      ∃ a, decAlarm1 9 [0, 0, 0x23, 0x17] = some a ∧ a.mode = 0 ∧ a.dydt = 0 :=
  ⟨⟨_, rfl, by decide⟩, _, rfl, by decide⟩

theorem test_meets_ReservedBitsZeroAndIgnored : (0x71 : Byte) ∈ encTime { sec := 5, min := 30, hr := 11, mode := 1, ampm := 1 } := by
  decide

/-- The largest values that survive: 79, 79, and 19 or 39 for the hour. -/
theorem test_meets_TimeRoundTrip :
    TimeFits { sec := 79, min := 79, hr := 19, mode := 1, ampm := 1 } ∧
      TimeFits { sec := 0, min := 0, hr := 39, mode := 0, ampm := 0 } := by
  unfold TimeFits; decide

theorem test_meets_CalendarRoundTrip : CalendarFits { day := 159, date := 159, month := 159, year := 159 } := by
  unfold CalendarFits; decide

theorem test_meets_AlarmRoundTrip :
    (AlarmFits { sec := 79, min := 79, hr := 19, day := 39, date := 255, am1 := 1, am2 := 0, am3 := 1, am4 := 0, dydt := 1, mode := 1
                 ampm := 1 } ∧ (79 : Byte).toNat < 80) ∧
      AlarmFits { sec := 255, min := 0, hr := 39, day := 255, date := 39, am1 := 0, am2 := 1, am3 := 0, am4 := 1, dydt := 0, mode := 0
                  ampm := 0 } := by
  unfold AlarmFits; decide

theorem test_meets_MergeTakesMaskedBits : 7 < 8 := by decide

theorem test_meets_EpochRange :
    (85 : Byte).toNat ≤ 85 ∧ (45 : Byte).toNat ≤ 45 ∧ (165 : Byte).toNat ≤ 165 ∧ 1 ≤ (1 : Byte).toNat ∧ (12 : Byte).toNat ≤ 12 := by decide

theorem test_meets_DaysOfForms :
    1 ≤ (1 : Byte).toNat ∧ (12 : Byte).toNat ≤ 12 ∧ (99 : Byte).toNat ≤ 99 ∧ 100 ≤ (100 : Byte).toNat ∧ (165 : Byte).toNat ≤ 165 := by
  decide

/-- The two forms do not meet, and at their ends: 2099-12-31 is day 47481 and 2100-01-01 day 47482 (V10). -/
theorem test_days_2100 : daysOf 31 12 99 = 47481 ∧ daysOf 1 1 100 = 47482 ∧ daysOf 165 12 165 = 71721 := by decide

theorem test_meets_StatusOnlyFromTransport :
    (Inv (waiting2 [.answer 0]) ∧ ∃ t, step (waiting2 [.answer 0]) = .next t) ∧
      Inv (waiting1 [.answer 0]) ∧ ∃ t, step (waiting1 [.answer 0]) = .next t ∧ t.phase ≠ .idle :=
  ⟨⟨by decide, _, rfl⟩, by decide, _, rfl, by decide⟩

theorem test_meets_FailurePropagates :
    Inv (waiting1 [.answer noDevice]) ∧ (waiting1 [.answer noDevice]).phase ≠ .idle ∧
      (waiting1 [.answer noDevice]).inputs = .answer noDevice :: [] :=
  ⟨by decide, by decide, rfl⟩

theorem test_meets_IllOnlyFromIssue :
    ((idleWith [.cmd 0x1D]).phase = .idle ∧ (idleWith [.cmd 0x1D]).inputs = .cmd 0x1D :: []) ∧
      (Inv (waiting1 [.cmd 0x1C]) ∧ ∃ t, step (waiting1 [.cmd 0x1C]) = .next t ∧ (waiting1 [.cmd 0x1C]).phase ≠ .idle) ∧
      ∀ c rest, (idleWith [.rd .ill]).inputs ≠ .cmd c :: rest :=
  ⟨by decide, ⟨by decide, _, rfl, by decide⟩, fun _ _ h => nomatch h⟩

theorem test_meets_HostOnlyRegisters :
    (∃ t, step (waiting1 [.answer 0]) = .next t) ∧ ∀ r v rest, (waiting1 [.answer 0]).inputs ≠ .wrByte r v :: rest :=
  ⟨⟨_, rfl⟩, fun _ _ _ h => nomatch h⟩

theorem test_meets_DeviceAddressFixed :
    ∃ t r, step (idleWith [.cmd 0x18]) = .next t ∧ t.bus = .pending r := ⟨_, _, rfl, rfl⟩

theorem test_meets_AgingNeverTouched :
    Inv (waiting2 [.answer 0]) ∧ (∃ t, step (waiting2 [.answer 0]) = .next t) ∧
      (∃ t r, step (idleWith [.cmd 0x1B]) = .next t ∧ t.bus = .pending r) ∧
      ∀ a v rest, (waiting2 [.answer 0]).inputs = .regChange a v :: rest → a.val ≠ 0x10 :=
  ⟨by decide, ⟨_, rfl⟩, ⟨_, _, rfl, rfl⟩, fun _ _ _ h => nomatch h⟩

theorem test_meets_OnlyTheSixBlocks :
    Inv (waiting1 [.answer 0]) ∧ ∃ t r, step (waiting1 [.answer 0]) = .next t ∧ t.bus = .pending r := ⟨by decide, _, _, rfl, rfl⟩

theorem test_meets_HiddenStateCarriesNothing : (idleWith [.cmd 0x1A]).phase = .idle ∧ (idleWith [.cmd 0x1A]).bus = .quiet := by decide

theorem test_meets_OnlyUnsolicitedAnswersStop :
    Inv (idleWith [.answer 0]) ∧ step (idleWith [.answer 0]) = .fault .unsolicitedAnswer :=
  ⟨by decide, rfl⟩

theorem test_meets_MeaningsNeverTouchThePeripheral :
    (∃ t, exec .setTime State.reset = .next t) ∧ ∃ t, exec .getEpoch (answeredWith .wait1 0 [1, 2, 3]) = .next t := ⟨⟨_, rfl⟩, _, rfl⟩

theorem test_meets_WriteThenReadAgrees :
    (idleWith [.cmd 0x10, .answer 0, .cmd 0x11, .answer 0]).phase = .idle ∧
      (idleWith [.cmd 0x10, .answer 0, .cmd 0x11, .answer 0]).devAddr = Config.devAddr ∧
      (idleWith [.cmd 0x10, .answer 0, .cmd 0x11, .answer 0]).inputs = .cmd 0x10 :: .answer 0 :: .cmd 0x11 :: .answer 0 :: [] ∧
      TimeFits Bank.atReset.time ∧ CalendarFits Bank.atReset.cal ∧ AlarmFits Bank.atReset.alarm ∧ Bank.atReset.alarm.sec.toNat < 80 := by
  unfold TimeFits CalendarFits AlarmFits; decide

theorem test_meets_RmwOverwritesConcurrentChange :
    (idleWith (.cmd 0x1A :: .answer 0 :: (changes [(reg 15, 3)] ++ .answer 0 :: []))).phase = .idle ∧
      (idleWith (.cmd 0x1A :: .answer 0 :: (changes [(reg 15, 3)] ++ .answer 0 :: []))).devAddr = Config.devAddr := by
  decide

theorem test_meets_TornEpoch :
    (idleWith (.cmd 0x1D :: .answer 0 :: (changes [(reg 5, 0x12)] ++ .answer 0 :: []))).phase = .idle ∧
      (idleWith (.cmd 0x1D :: .answer 0 :: (changes [(reg 5, 0x12)] ++ .answer 0 :: []))).devAddr = Config.devAddr := by
  decide

end Sys2Proof.Tests
end

/-! What one step of the machine does, said once for every entry of the schedule, and what the rules about `STATUS` and the device
address take from it. -/

namespace Sys2Proof.Safety

open Sys2Proof.Machine

/-! One step, entry by entry. -/

/-- The ways in which a step ends when it ends with a next state: one constructor per kind of entry and per guard that it meets. -/
inductive StepEnd (s t : State) : Prop where
  /-- The schedule is empty. -/
  | stutters (hi : s.inputs = []) (ht : t = s)
  /-- A command byte for a busy block (R40). -/
  | dropped (c : Byte) (rest : List Input) (hi : s.inputs = .cmd c :: rest) (hp : s.phase ≠ .idle)
      (ht : t = { s with inputs := rest })
  /-- A reserved code for an idle block (R103, R243). -/
  | illegal (c : Byte) (w : ReservedReason) (rest : List Input) (hi : s.inputs = .cmd c :: rest) (hp : s.phase = .idle)
      (hc : decode c = .reserved w) (ht : t = raiseIllegal { s with inputs := rest })
  /-- A command for an idle block: its `ISSUE` label runs (R26). -/
  | issues (c : Byte) (i : Instr) (rest : List Input) (hi : s.inputs = .cmd c :: rest) (hp : s.phase = .idle)
      (hc : decode c = .command i) (ht : LabelEnd i { s with inputs := rest } t)
  /-- A host write of an 8-bit register (R39, R40). -/
  | writesByte (r : ByteReg) (v : Byte) (rest : List Input) (hi : s.inputs = .wrByte r v :: rest)
      (ht : t = hostWrite (putByte r v) { s with inputs := rest })
  /-- A host write of a 1-bit register (R39, R40). -/
  | writesBit (r : BitReg) (v : Bit) (rest : List Input) (hi : s.inputs = .wrBit r v :: rest)
      (ht : t = hostWrite (putBit r v) { s with inputs := rest })
  /-- A host read (R39, R40). -/
  | reads (r : BankReg) (rest : List Input) (hi : s.inputs = .rd r :: rest) (ht : t = hostRead r { s with inputs := rest })
  /-- A register change by the environment (R75). -/
  | changes (a : Fin Config.nreg) (v : Byte) (rest : List Input) (hi : s.inputs = .regChange a v :: rest)
      (ht : t = changeReg a v { s with inputs := rest })
  /-- The answer to the outstanding request: the transaction is carried out and the waiting label runs (R14, R69). -/
  | answers (st : Status) (r : Request) (i : Instr) (rest : List Input) (hi : s.inputs = .answer st :: rest)
      (hb : s.bus = .pending r) (hc : decode s.cur = .command i) (ht : LabelEnd i (transport st r { s with inputs := rest }) t)

/-- A command byte that a step takes and answers with a next state. -/
theorem stepEnd_of_hostCommand {s t : State} {c : Byte} {rest : List Input} (hi : s.inputs = .cmd c :: rest)
    (h : hostCommand c { s with inputs := rest } = .next t) : StepEnd s t := by
  unfold hostCommand at h
  split at h
  case isTrue hp =>
    split at h
    case h_1 i hc => exact .issues c i rest hi hp hc (exec_end h)
    case h_2 w hc => cases h; exact .illegal c w rest hi hp hc rfl
  case isFalse hp => cases h; exact .dropped c rest hi hp rfl

/-- An answer that a step takes and answers with a next state: a request was outstanding, and `cur` holds its command. -/
theorem stepEnd_of_takeAnswer {s t : State} {st : Status} {rest : List Input} (hi : s.inputs = .answer st :: rest)
    (h : takeAnswer st { s with inputs := rest } = .next t) : StepEnd s t := by
  unfold takeAnswer at h
  split at h
  case h_1 r hb =>
    unfold resume at h
    split at h
    case h_1 i hc => exact .answers st r i rest hi hb (by simpa using hc) (exec_end h)
    case h_2 => cases h
  case h_2 => cases h
  case h_3 => cases h

/-- Everything a step can do when it answers a next state. -/
theorem step_end {s t : State} (h : step s = .next t) : StepEnd s t := by
  cases hi : s.inputs with
  | nil =>
    rw [step_nil hi] at h
    cases h
    exact .stutters hi rfl
  | cons x rest =>
    rw [step_cons hi] at h
    cases x with
    | cmd c => exact stepEnd_of_hostCommand hi h
    | wrByte r v => cases h; exact .writesByte r v rest hi rfl
    | wrBit r v => cases h; exact .writesBit r v rest hi rfl
    | rd r => cases h; exact .reads r rest hi rfl
    | regChange a v => cases h; exact .changes a v rest hi rfl
    | answer st => exact stepEnd_of_takeAnswer hi h

/-! Labels: what they keep and what they emit. -/

/-- No label writes the device address (R25). -/
theorem labelEnd_devAddr {i : Instr} {s t : State} (h : LabelEnd i s t) : t.devAddr = s.devAddr := by
  cases h <;> subst_vars <;> rfl

/-- A request that a label emits carries the device address (R66). -/
theorem labelEnd_pending {i : Instr} {s t : State} {r : Request} (h : LabelEnd i s t) (hr : t.bus = .pending r) :
    s.bus = .pending r ∨ r.dev = s.devAddr := by
  cases h with
  | waits hp hb ht => subst ht; exact .inl hr
  | pure hp hf b hk ht => subst ht; exact .inl hr
  | issued hp q l hq hd ht => subst ht; cases hr; exact .inr hd
  | second hp d hb q buf hq hd ht => subst ht; cases hr; exact .inr hd
  | ended hp st d hb b n hk ht => subst ht; cases hr

/-- A label leaves `STATUS` alone, unless it ends its command on an answer that has arrived: then `STATUS` is that answer's (R27). -/
theorem labelEnd_status {i : Instr} {s t : State} (h : LabelEnd i s t) :
    t.status = s.status ∨
      s.phase ≠ .idle ∧ ∃ st d, s.bus = .answered st d ∧ t.phase = .idle ∧ t.status = st := by
  cases h with
  | waits hp hb ht => exact .inl (by rw [ht])
  | pure hp hf b hk ht => exact .inl (by rw [ht])
  | issued hp r l hr hd ht => exact .inl (by rw [ht])
  | second hp d hb r q hr hd ht => exact .inl (by rw [ht])
  | ended hp st d hb b n hk ht => exact .inr ⟨hp, st, d, hb, by rw [ht, finish_phase], by rw [ht, finish_status]⟩

/-! The outstanding request. -/

/-- A coherent block with a request outstanding waits for the answer to the request that `cur`'s command makes (R22). -/
theorem coherent_pending {s : State} {r : Request} (h : coherent s = true) (hb : s.bus = .pending r) :
    ∃ i, decode s.cur = .command i ∧ requestIn s.phase i = some (shapeOf r) ∧ r.dev = s.devAddr := by
  cases hp : s.phase <;> cases hc : decode s.cur <;> simp_all [coherent]

/-- Every request of R62 stays inside the register map (R61). -/
theorem requestIn_inside {p : Phase} {i : Instr} {q : Shape} (h : requestIn p i = some q) :
    q.start.toNat + q.len ≤ Config.nreg := by
  cases p <;> cases i <;> cases h <;> decide

/-- The outstanding request of a state that meets the invariant is one the device has (R62, R66, R80). -/
theorem inMap_of_inv {s : State} {r : Request} (h : Inv s) (hb : s.bus = .pending r) : r.inMap = true := by
  obtain ⟨hdev, -, hcoh⟩ := h
  obtain ⟨i, -, hq, hd⟩ := coherent_pending hcoh hb
  have hin := requestIn_inside hq
  cases r <;> simp_all [Request.inMap, shapeOf, Request.start, Request.len]

/-- Inside the map a request is answered with the transport's code unchanged (R67). -/
theorem transport_status_inMap {st st' : Status} {r : Request} {s : State} {d : List Byte} (h : r.inMap = true)
    (hb : (transport st r s).bus = .answered st' d) : st' = st := by
  obtain ⟨d', hb', -⟩ := transport_answers st r s
  rw [hb', if_pos h] at hb
  cases hb
  rfl

/-- After its answer a request is not outstanding (R69). -/
theorem transport_not_pending (st : Status) (r r' : Request) (s : State) : (transport st r s).bus ≠ .pending r' := by
  obtain ⟨d, hb, -⟩ := transport_answers st r s
  simp [hb]

/-! `STATUS` and the device address over one step. -/

/-- A step from a state that meets the invariant keeps `STATUS`, or ends a command on an answer and takes its code (R27). -/
theorem step_status {s t : State} (hinv : Inv s) (h : step s = .next t) :
    t.status = s.status ∨
      ∃ st rest, s.inputs = .answer st :: rest ∧ s.phase ≠ .idle ∧ t.phase = .idle ∧ t.status = st := by
  cases step_end h with
  | issues c i rest hi hp hc ht =>
    rcases labelEnd_status ht with hs | ⟨hbusy, -⟩
    · exact .inl hs
    · exact absurd hp hbusy
  | answers st r i rest hi hb hc ht =>
    rcases labelEnd_status ht with hs | ⟨hbusy, st', d, hans, hidle, hst⟩
    · exact .inl (by simpa using hs)
    · have hcode : st' = st := transport_status_inMap (inMap_of_inv hinv hb) hans
      exact .inr ⟨st, rest, hi, by simpa using hbusy, hidle, hst.trans hcode⟩
  | _ => rename_i ht; subst ht; simp

/-- No step writes the device address (R25). -/
theorem step_devAddr {s t : State} (h : step s = .next t) : t.devAddr = s.devAddr := by
  cases step_end h with
  | issues c i rest hi hp hc ht => simpa using labelEnd_devAddr ht
  | answers st r i rest hi hb hc ht => simpa using labelEnd_devAddr ht
  | _ => rename_i ht; subst ht; simp

/-- A request outstanding after a step was so before or carries the device address (R66). -/
theorem step_pending {s t : State} {r : Request} (h : step s = .next t) (hr : t.bus = .pending r) :
    s.bus = .pending r ∨ r.dev = s.devAddr := by
  cases step_end h with
  | issues c i rest hi hp hc ht => simpa using labelEnd_pending ht hr
  | answers st q i rest hi hb hc ht =>
    rcases labelEnd_pending ht hr with hpend | hdev
    · exact absurd hpend (transport_not_pending st q r _)
    · exact .inr (by simpa using hdev)
  | _ => rename_i ht; subst ht; exact .inl (by simpa using hr)

/-- Settles O47: of the labels only the last one writes `STATUS`, and under the invariant the answer it runs on is the transport's. -/
theorem statusOnlyFromTransport : Obligations.StatusOnlyFromTransport := by
  intro s t hinv h
  have hstatus := step_status hinv h
  refine ⟨hstatus, fun hbusy => hstatus.resolve_right ?_⟩
  rintro ⟨_, _, -, -, hidle, -⟩
  exact hbusy hidle

/-- Settles O51: no update of the state writes the device address, and both emitting labels take it from the state. -/
theorem deviceAddressFixed : Obligations.DeviceAddressFixed :=
  ⟨rfl, fun _ _ h => ⟨step_devAddr h, fun _ hr => step_pending h hr⟩⟩

end Sys2Proof.Safety

/-! The BCD codec over natural numbers (spec/40_bcd_codec.md R141, R144). -/

namespace Sys2Proof.Codec

open Sys2Proof.Machine

/-- The high nibble of a byte, as `from_bcd` takes it. -/
theorem toNat_highNibble (b : Byte) : ((b >>> 4) &&& 0x0F).toNat = b.toNat / 16 := by
  have hlt : b.toNat / 16 < 16 := by omega
  calc ((b >>> 4) &&& 0x0F).toNat = b.toNat / 16 % 16 := by
        simp [Nat.shiftRight_eq_div_pow, Nat.and_two_pow_sub_one_eq_mod _ 4]
    _ = b.toNat / 16 := Nat.mod_eq_of_lt hlt

/-- The low nibble of a byte, as `from_bcd` takes it. -/
theorem toNat_lowNibble (b : Byte) : (b &&& 0x0F).toNat = b.toNat % 16 := by
  simp [Nat.and_two_pow_sub_one_eq_mod _ 4]

/-- Two nibbles combine to at most 165 (R144). -/
theorem nibbles_le (b : Byte) : b.toNat / 16 * 10 + b.toNat % 16 ≤ 165 := by
  omega

/-- `from_bcd` is its formula over the natural numbers: the 8-bit product and sum do not overflow (R144). -/
theorem toNat_fromBcd (b : Byte) : (fromBcd b).toNat = b.toNat / 16 * 10 + b.toNat % 16 := by
  have hfits := nibbles_le b
  rw [fromBcd, BitVec.toNat_add, BitVec.toNat_mul, toNat_highNibble, toNat_lowNibble, show (10 : Byte).toNat = 10 from rfl]
  omega

/-- Settles O19: each nibble is its quotient or remainder by 16, and what they combine to fits in 8 bits. -/
theorem fromBcdFormula : Obligations.FromBcdFormula := by
  intro b
  rw [toNat_fromBcd]
  exact ⟨rfl, nibbles_le b⟩

end Sys2Proof.Codec

/-! The temperature combination (spec/41_field_codec.md R168). -/

namespace Sys2Proof.FieldCodec

open Sys2Proof.Machine

/-- Two bytes answer the concatenation with the first one high. -/
@[simp] theorem temp16_pair (b0 b1 : Byte) : temp16 [b0, b1] = some (b0 ++ b1) := rfl

/-- Side by side is shifted and or-ed: the 8 low bits of the shifted byte are 0. -/
theorem append_eq_shiftLeft_or (b0 b1 : Byte) : b0 ++ b1 = (b0.setWidth 16 <<< 8) ||| b1.setWidth 16 := by
  rw [BitVec.append_def, BitVec.shiftLeftZeroExtend_eq, BitVec.setWidth'_eq]

/-- The second byte is below 256, so that the or is a sum without a carry. -/
theorem toNat_append_bytes (b0 b1 : Byte) : (b0 ++ b1).toNat = b0.toNat * 256 + b1.toNat := by
  rw [BitVec.toNat_append, ← Nat.shiftLeft_add_eq_or_of_lt b1.isLt, Nat.shiftLeft_eq]

/-- Settles O43: the combination is a concatenation, read once as a number and once as a shift and an or. -/
theorem temperatureCombines : Obligations.TemperatureCombines :=
  fun b0 b1 => ⟨b0 ++ b1, temp16_pair b0 b1, toNat_append_bytes b0 b1, append_eq_shiftLeft_or b0 b1⟩

end Sys2Proof.FieldCodec

/-! The command word: decoding and encoding agree (spec/30_encoding.md R100 to R104). -/

namespace Sys2Proof.Encoding

open Sys2Proof.Machine Sys2Proof.Safety

/-- A byte is its three fields side by side (R100). -/
theorem toNat_eq_fields (c : Byte) : c.toNat = 32 * (fieldZ c).toNat + 16 * (fieldG c).toNat + (fieldOp c).toNat := by
  simp only [fieldZ, fieldG, fieldOp, BitVec.extractLsb'_toNat, Nat.shiftRight_eq_div_pow]
  omega

/-- Group 0 answers a command only at the low nibble of its code. -/
theorem decodePure_command {o : Options} {op : BitVec 4} {i : Instr} (h : decodePure op = .command i) :
    WellFormed o i ∧ (encode i).toNat = op.toNat := by
  unfold decodePure at h
  split at h <;> cases h
  all_goals rename_i hop; rw [hop]; exact ⟨rfl, rfl⟩

/-- Group 1 answers a command only if the block has it, and only at the low nibble of its code. -/
theorem decodeBus_command {o : Options} {op : BitVec 4} {i : Instr} (h : decodeBus o op = .command i) :
    WellFormed o i ∧ (encode i).toNat = 16 + op.toNat := by
  unfold decodeBus at h
  split at h
  case h_11 hop | h_13 hop =>
    split at h <;> cases h
    rw [hop]
    exact ⟨‹_›, rfl⟩
  case h_14 => cases h
  all_goals cases h; rename_i hop; rw [hop]; exact ⟨rfl, rfl⟩

/-- The code of a command decodes to it on every block that has it. -/
theorem decodeWith_encode (o : Options) (i : Instr) (h : WellFormed o i) : decodeWith o (encode i) = .command i := by
  cases i with
  | rmwCs => exact Laws.CodeDecodes.rmwCs o h
  | getEpoch => exact Laws.CodeDecodes.getEpoch o h
  | _ => rfl

/-- A byte decodes to a command only if the block has the command and the byte is its code. -/
theorem encode_of_decodeWith {o : Options} {i : Instr} {c : Byte} (h : decodeWith o c = .command i) :
    WellFormed o i ∧ encode i = c := by
  have hc := toNat_eq_fields c
  unfold decodeWith at h
  split at h
  case isTrue => cases h
  case isFalse hz =>
    have hz : (fieldZ c).toNat = 0 := by simpa using congrArg BitVec.toNat (not_not.1 hz)
    split at h
    case isTrue hg =>
      obtain ⟨hwf, hcode⟩ := decodePure_command (o := o) h
      have hg : (fieldG c).toNat = 0 := by rw [hg]; rfl
      exact ⟨hwf, BitVec.eq_of_toNat_eq (by omega)⟩
    case isFalse hg =>
      obtain ⟨hwf, hcode⟩ := decodeBus_command h
      have hg : (fieldG c).toNat = 1 := by
        have := BitVec.eq_of_toNat_eq (x := fieldG c) (y := 0)
        simp_all
        omega
      exact ⟨hwf, BitVec.eq_of_toNat_eq (by omega)⟩

/-- Settles O1: a byte is its three fields, and each group's table answers a command at the low nibble of its code alone. -/
theorem decodeAndEncodeAgree : Obligations.DecodeAndEncodeAgree := by
  intro o i c
  refine ⟨encode_of_decodeWith, ?_⟩
  rintro ⟨hwf, rfl⟩
  exact decodeWith_encode o i hwf

/-- This hardware has every command (R5). -/
theorem wellFormed_options (i : Instr) : WellFormed Config.options i := by cases i <;> rfl

/-- This hardware decodes a byte to a command exactly when the byte is the command's code. -/
theorem decode_command_iff {c : Byte} {i : Instr} : decode c = .command i ↔ encode i = c := by
  rw [decode, decodeAndEncodeAgree]
  exact and_iff_right (wellFormed_options i)

@[simp] theorem decode_encode (i : Instr) : decode (encode i) = .command i := decode_command_iff.2 rfl

/-- Settles O2: each word evaluates; an optional command's code evaluates for either value of the other option. -/
theorem opcodeMapWords : Obligations.OpcodeMapWords := by
  unfold Obligations.OpcodeMapWords
  decide

/-- A byte that is no command's code is reserved (R103). -/
theorem decode_reserved {c : Byte}
    (h : c ∉ ([0x01, 0x02, 0x10, 0x11, 0x12, 0x13, 0x14, 0x15, 0x16, 0x17, 0x18, 0x19, 0x1A, 0x1B, 0x1D] : List Byte)) :
    ∃ w, decode c = .reserved w := by
  cases hc : decode c with
  | reserved w => exact ⟨w, rfl⟩
  | command i =>
    obtain rfl := decode_command_iff.1 hc
    cases i <;> exact absurd (by decide) h

end Sys2Proof.Encoding

/-! One entry of the schedule (spec/00_scope.md R6, R7): what the host port, the environment and the transport's answer do. -/

namespace Sys2Proof.Port

open Sys2Proof.Machine Sys2Proof.Safety Sys2Proof.Encoding

/-! Host writes to `CMD` (R26). -/

/-- An idle block runs the command whose code is written. -/
theorem hostCommand_encode (i : Instr) {s : State} (h : s.phase = .idle) : hostCommand (encode i) s = exec i s := by
  simp [hostCommand, h]

/-- An idle block raises Illegal on a reserved code. -/
theorem hostCommand_reserved {c : Byte} {w : ReservedReason} {s : State} (h : s.phase = .idle) (hc : decode c = .reserved w) :
    hostCommand c s = .next (setIll s) := by
  simp [hostCommand, h, hc, raiseIllegal]

/-- A busy block ignores `CMD`. -/
theorem hostCommand_busy (c : Byte) {s : State} (h : s.phase ≠ .idle) : hostCommand c s = .next s := by
  simp [hostCommand, h]

/-- An idle block runs the command whose code is next in the schedule. -/
theorem step_cmd (i : Instr) {s : State} {rest : List Input} (hp : s.phase = .idle) (hi : s.inputs = .cmd (encode i) :: rest) :
    step s = exec i { s with inputs := rest } := by
  rw [step_cons hi]
  exact hostCommand_encode i hp

/-- A command's code, of 8 bits, is its own table word (R100). -/
theorem tableByte_toNat (c : Byte) : tableByte 8 c.toNat = c := by
  have hlt : c.toNat < 2 ^ 8 := c.isLt
  rw [tableByte, Nat.mod_eq_of_lt hlt, BitVec.ofNat_toNat, BitVec.setWidth_eq]

/-- Settles O6: the code that is next in the schedule decodes to its command, and a table word is put there. -/
theorem stepRunsTheIssuedCommand : Obligations.StepRunsTheIssuedCommand := by
  refine ⟨fun s i rest _ hp hi => step_cmd i hp hi, fun s i _ => ?_⟩
  rw [State.withFetchWord, tableByte_toNat]
  exact step_cmd i rfl rfl

/-- Settles O7: a byte outside the 15 codes is reserved, and an idle block raises Illegal on it. -/
theorem reservedCodeRaisesIllegal : Obligations.ReservedCodeRaisesIllegal := by
  intro s c rest hp hi hc
  obtain ⟨w, hw⟩ := decode_reserved hc
  rw [step_cons hi]
  exact hostCommand_reserved hp hw

/-! Host accesses to the bank (R39, R40). -/

theorem hostWrite_idle (put : Bank → Bank) {s : State} (h : s.phase = .idle) :
    hostWrite put s = { s with bank := put s.bank } := if_pos h

theorem hostWrite_busy (put : Bank → Bank) {s : State} (h : s.phase ≠ .idle) : hostWrite put s = s := if_neg h

/-- Settles O8: each of the three host writes is guarded by the phase. -/
theorem busyIgnoresHostWrites : Obligations.BusyIgnoresHostWrites := by
  intro s x rest hp hi hx
  rw [step_cons hi]
  obtain ⟨c, rfl⟩ | ⟨r, v, rfl⟩ | ⟨r, v, rfl⟩ := hx
  · exact hostCommand_busy c hp
  · exact congrArg Host.Outcome.next (hostWrite_busy (putByte r v) (s := { s with inputs := rest }) hp)
  · exact congrArg Host.Outcome.next (hostWrite_busy (putBit r v) (s := { s with inputs := rest }) hp)

/-- Settles O9: a busy block drops the host's writes, and reads and register changes leave its side alone. -/
theorem busyWaitsForItsAnswer : Obligations.BusyWaitsForItsAnswer := by
  intro s hp
  refine ⟨step_nil, fun x rest hi hx => ?_⟩
  have dropped := busyIgnoresHostWrites s x rest hp hi
  cases x with
  | cmd c => exact ⟨_, dropped (.inl ⟨c, rfl⟩), by simp⟩
  | wrByte r v => exact ⟨_, dropped (.inr (.inl ⟨r, v, rfl⟩)), by simp⟩
  | wrBit r v => exact ⟨_, dropped (.inr (.inr ⟨r, v, rfl⟩)), by simp⟩
  | rd r => exact ⟨_, step_cons hi, by simp⟩
  | regChange a v => exact ⟨_, step_cons hi, by simp⟩
  | answer st => exact absurd rfl (hx st)

/-! Host reads (R26, R39, R40). -/

/-- A read that R39 gives a value to returns it. -/
theorem hostRead_value {r : BankReg} {s : State} {v : Nat} (h : s.phase = .idle ∨ r = .busy) (hv : regValue r s = some v) :
    hostRead r s = { s with hostData := v } := by
  simp [hostRead, h, hv, deliver]

/-- A read that R39 gives no value to returns a free value of the register's width. -/
theorem hostRead_free {r : BankReg} {s : State} (h : s.phase ≠ .idle ∧ r ≠ .busy ∨ r = .cmd) : hostRead r s = deliverFree r s := by
  obtain ⟨hp, hr⟩ | rfl := h
  · simp [hostRead, hp, hr]
  · simp [hostRead, regValue]

/-- `BUSY` holds 0 exactly when the block is idle (R23). -/
theorem regValue_busy (s : State) : regValue .busy s = some (if s.phase = .idle then 0 else 1) := by
  by_cases h : s.phase = .idle <;> simp [regValue, busy, h]

/-- Every row of the bank table is its register's width and value (R36). -/
theorem bankTable_rows (s : State) : ∀ row ∈ bankTable s, row.1.width = row.2.1 ∧ regValue row.1 s = some row.2.2 := by
  have hbusy : (busy s).toNat = if s.phase = .idle then 0 else 1 := Option.some.inj (regValue_busy s)
  simp [bankTable, singleRows, timeRows, calRows, alarmRows, csRows, BankReg.width, regValue, hbusy]

/-- The registers of the bank table do not depend on the state, and only `CMD` is not among them. -/
theorem mem_bankTable_names {r : BankReg} (h : r ≠ .cmd) (s : State) : r ∈ (bankTable s).map Prod.fst := by
  have hnames : (bankTable s).map Prod.fst = (bankTable State.reset).map Prod.fst := rfl
  rw [hnames]
  cases r with
  | cmd => exact absurd rfl h
  | _ => decide

/-- Every register but `CMD` has a row in the bank table. -/
theorem exists_row {r : BankReg} (h : r ≠ .cmd) (s : State) : ∃ w v, (r, w, v) ∈ bankTable s := by
  obtain ⟨⟨_, w, v⟩, hmem, rfl⟩ := List.mem_map.1 (mem_bankTable_names h s)
  exact ⟨w, v, hmem⟩

/-- A host read that R39 gives a value to, next in the schedule. -/
theorem step_rd_value {s : State} {r : BankReg} {rest : List Input} {v : Nat} (hi : s.inputs = .rd r :: rest)
    (h : s.phase = .idle ∨ r = .busy) (hv : regValue r s = some v) : step s = .next { s with inputs := rest, hostData := v } := by
  rw [step_cons hi]
  exact congrArg Host.Outcome.next (hostRead_value (s := { s with inputs := rest }) h hv)

/-- A host read that R39 gives no value to, next in the schedule. -/
theorem step_rd_free {s : State} {r : BankReg} {rest : List Input} (hi : s.inputs = .rd r :: rest)
    (h : s.phase ≠ .idle ∧ r ≠ .busy ∨ r = .cmd) : step s = .next (deliverFree r { s with inputs := rest }) := by
  rw [step_cons hi]
  exact congrArg Host.Outcome.next (hostRead_free (s := { s with inputs := rest }) h)

/-- Settles O15: the bank table names every register but `CMD`, and a read is of one of the two kinds that R39 and R40 tell apart. -/
theorem hostReadsARegister : Obligations.HostReadsARegister := by
  refine ⟨fun s r w v h => bankTable_rows s _ h, fun s r hr => exists_row hr s, fun s => ⟨rfl, rfl⟩,
    fun s r rest hi => ⟨fun hp hr => ?_, ?_, fun h => ⟨_, step_rd_free hi h⟩⟩⟩
  · obtain ⟨w, v, hrow⟩ := exists_row hr s
    have hv := (bankTable_rows s _ hrow).2
    exact ⟨v, hv, step_rd_value hi (.inl hp) hv⟩
  · rintro rfl
    exact step_rd_value hi (.inr rfl) (regValue_busy s)

/-- An 8-bit register reads as written, every other register as before. -/
theorem regValue_putByte (r : ByteReg) (v : Byte) (q : BankReg) (s : State) :
    regValue q { s with bank := putByte r v s.bank } = if q = byteRegName r then some v.toNat else regValue q s := by
  cases r <;> cases q <;> rfl

/-- A 1-bit register reads as written, every other register as before. -/
theorem regValue_putBit (r : BitReg) (v : Bit) (q : BankReg) (s : State) :
    regValue q { s with bank := putBit r v s.bank } = if q = bitRegName r then some v.toNat else regValue q s := by
  cases r <;> cases q <;> rfl

/-- Settles O16: an idle write puts the value into one field, which one register reads. -/
theorem hostWritesOneRegister : Obligations.HostWritesOneRegister := by
  refine ⟨fun s r v rest hp hi => ⟨putByte r v s.bank, ?_, ?_, fun q hq => ?_⟩,
    fun s r v rest hp hi => ⟨putBit r v s.bank, ?_, ?_, fun q hq => ?_⟩⟩
  · rw [step_cons hi]
    exact congrArg Host.Outcome.next (hostWrite_idle (putByte r v) (s := { s with inputs := rest }) hp)
  · rw [regValue_putByte, if_pos rfl]
  · rw [regValue_putByte, if_neg hq]
  · rw [step_cons hi]
    exact congrArg Host.Outcome.next (hostWrite_idle (putBit r v) (s := { s with inputs := rest }) hp)
  · rw [regValue_putBit, if_pos rfl]
  · rw [regValue_putBit, if_neg hq]

/-! The transport's answer and the environment's changes (R69, R75). -/

/-- An answer to an outstanding request carries it out and runs the label of the command in `cur`. -/
theorem step_answer {s : State} {r : Request} {i : Instr} {st : Status} {rest : List Input} (hb : s.bus = .pending r)
    (hc : decode s.cur = .command i) (hi : s.inputs = .answer st :: rest) :
    step s = exec i (transport st r { s with inputs := rest }) := by
  simp [step_cons hi, handle, takeAnswer, hb, resume, hc]

/-- Settles O10: the answer is taken by the request that is outstanding. -/
theorem answerRunsTheWaitingLabel : Obligations.AnswerRunsTheWaitingLabel :=
  fun _ _ _ _ _ hb hc hi => step_answer hb hc hi

/-- An answer needs an outstanding request to take it. -/
theorem takeAnswer_unsolicited (st : Status) {s : State} (h : ∀ r, s.bus ≠ .pending r) :
    takeAnswer st s = .fault .unsolicitedAnswer := by
  unfold takeAnswer
  split
  case h_1 r hb => exact absurd hb (h r)
  case h_2 => rfl
  case h_3 => rfl

/-- Settles O11: only an outstanding request takes an answer. -/
theorem answerWithoutRequestStops : Obligations.AnswerWithoutRequestStops := by
  intro s st rest hb hi
  rw [step_cons hi]
  exact takeAnswer_unsolicited st hb

/-- A register change of the environment, next in the schedule. -/
theorem step_regChange {s : State} {a : Fin Config.nreg} {v : Byte} {rest : List Input} (hi : s.inputs = .regChange a v :: rest) :
    step s = .next { s with inputs := rest, mem := s.mem.write a v } := step_cons hi

/-- Settles O14: the change is one write to the peripheral's registers. -/
theorem environmentChangesOneRegister : Obligations.EnvironmentChangesOneRegister := by
  intro s a v rest hi
  refine ⟨s.mem.write a v, step_regChange hi, ?_, fun x hx => ?_⟩
  · rw [Memory.read_write, if_pos rfl]
  · rw [Memory.read_write, if_neg hx]

end Sys2Proof.Port

/-! The invariant of the machine, kept by every step, and the rules of the whole machine that rest on it. -/

namespace Sys2Proof.Invariant

open Sys2Proof.Machine Sys2Proof.Safety Sys2Proof.Encoding Sys2Proof.Port

/-! Reset (R43). -/

/-- Settles O4: reset lists no register and leaves the sequencer idle with a quiet port. -/
theorem invariantAtReset : Obligations.InvariantAtReset :=
  ⟨rfl, ⟨List.Pairwise.nil, by simp [State.reset]⟩, rfl⟩

/-- Settles O5: each value is the one that the reset state is built with. -/
theorem resetState : Obligations.ResetState := ⟨rfl, rfl, rfl, rfl, rfl, rfl⟩

/-! Coherence of the sequencer (R22, R66, R69). -/

/-- An idle block has no request outstanding; a busy one has the request that the command in `cur` makes in its phase. -/
theorem coherent_iff {s : State} : coherent s = true ↔
    s.phase = .idle ∧ s.bus = .quiet ∨
      ∃ r i, s.bus = .pending r ∧ decode s.cur = .command i ∧ requestIn s.phase i = some (shapeOf r) ∧ r.dev = s.devAddr := by
  refine ⟨fun h => ?_, ?_⟩
  · cases hb : s.bus with
    | quiet => cases hp : s.phase <;> simp_all [coherent]
    | pending r =>
      obtain ⟨i, hi⟩ := coherent_pending h hb
      exact .inr ⟨r, i, rfl, hi⟩
    | answered st d => cases hp : s.phase <;> simp_all [coherent]
  · rintro (⟨hp, hb⟩ | ⟨r, i, hb, hc, hq, hd⟩)
    · simp [coherent, hp, hb]
    · cases hp : s.phase <;> simp_all [coherent, requestIn]

/-- Coherence speaks of the phase, the port, `cur` and the device address alone. -/
theorem coherent_of_same {s t : State} (h : coherent s = true) (hp : t.phase = s.phase) (hb : t.bus = s.bus) (hc : t.cur = s.cur)
    (hd : t.devAddr = s.devAddr) : coherent t = true := by
  rw [coherent_iff] at h ⊢
  rwa [hp, hb, hc, hd]

/-- A coherent block with a request outstanding is busy. -/
theorem busy_of_pending {s : State} {r : Request} (h : coherent s = true) (hb : s.bus = .pending r) : s.phase ≠ .idle := by
  obtain ⟨i, -, hq, -⟩ := coherent_pending h hb
  intro hp
  simp [requestIn, hp] at hq

/-- A coherent block that is busy has a request outstanding. -/
theorem pending_of_busy {s : State} (h : coherent s = true) (hp : s.phase ≠ .idle) : ∃ r, s.bus = .pending r := by
  rcases coherent_iff.1 h with ⟨hidle, -⟩ | ⟨r, i, hb, -⟩
  · exact absurd hidle hp
  · exact ⟨r, hb⟩

/-- A coherent idle block has a quiet port. -/
theorem quiet_of_idle {s : State} (h : coherent s = true) (hp : s.phase = .idle) : s.bus = .quiet := by
  rcases coherent_iff.1 h with ⟨-, hb⟩ | ⟨r, i, hb, -⟩
  · exact hb
  · exact absurd hp (busy_of_pending h hb)

/-! Labels. -/

/-- The `ISSUE` label of an idle block leaves it coherent. -/
theorem labelEnd_coherent_of_issue {i : Instr} {s t : State} (h : LabelEnd i s t) (hp : s.phase = .idle) (hb : s.bus = .quiet) :
    coherent t = true := by
  cases h with
  | waits hbusy => exact absurd hp hbusy
  | pure _ hf b hk ht => subst ht; exact coherent_iff.2 (.inl ⟨hp, hb⟩)
  | issued _ r l hr hd ht => subst ht; exact coherent_iff.2 (.inr ⟨r, i, rfl, decode_encode i, hr, hd⟩)
  | second hbusy => simp [hp] at hbusy
  | ended hbusy => exact absurd hp hbusy

/-- The label of the command in `cur` that runs on an answer leaves the block coherent. -/
theorem labelEnd_coherent_of_answer {i : Instr} {s t : State} {st : Status} {d : List Byte} (h : LabelEnd i s t)
    (hp : s.phase ≠ .idle) (hb : s.bus = .answered st d) (hc : decode s.cur = .command i) : coherent t = true := by
  cases h with
  | waits _ hno => exact absurd hb (hno st d)
  | pure hidle => exact absurd hidle hp
  | issued hidle => exact absurd hidle hp
  | second _ d' _ r q hr hd ht => subst ht; exact coherent_iff.2 (.inr ⟨r, i, rfl, hc, hr, hd⟩)
  | ended _ st' d' _ b n _ ht => subst ht; exact coherent_iff.2 (.inl ⟨rfl, rfl⟩)

/-- What no label writes: the peripheral's registers, the device address, the host's last read, the schedule (R60). -/
theorem labelEnd_frame {i : Instr} {s t : State} (h : LabelEnd i s t) :
    t.mem = s.mem ∧ t.devAddr = s.devAddr ∧ t.hostData = s.hostData ∧ t.inputs = s.inputs := by
  cases h <;> subst_vars <;> exact ⟨rfl, rfl, rfl, rfl⟩

/-- The label of a busy block leaves `ILL` alone (R28). -/
theorem labelEnd_ill_of_busy {i : Instr} {s t : State} (h : LabelEnd i s t) (hp : s.phase ≠ .idle) : t.ill = s.ill := by
  cases h with
  | pure hidle => exact absurd hidle hp
  | issued hidle => exact absurd hidle hp
  | _ => subst_vars; rfl

/-- The `ISSUE` label clears `ILL` (R28). -/
theorem labelEnd_ill_of_idle {i : Instr} {s t : State} (h : LabelEnd i s t) (hp : s.phase = .idle) : t.ill = 0 := by
  cases h with
  | waits hbusy => exact absurd hp hbusy
  | second hbusy => simp [hp] at hbusy
  | ended hbusy => exact absurd hp hbusy
  | _ => subst_vars; rfl

/-- No label writes a register that only the host writes (R36). -/
theorem labelEnd_keepsHostOnly {i : Instr} {s t : State} (h : LabelEnd i s t) : KeepsHostOnly s.bank t.bank := by
  cases h with
  | pure _ _ b hk ht => subst ht; exact hk
  | ended _ st d _ b n hk ht => subst ht; exact hk
  | _ => subst_vars; exact ⟨rfl, rfl, rfl⟩

/-- Settles O56: of what the labels write, nothing is the environment's or the host's. -/
theorem meaningsNeverTouchThePeripheral : Obligations.MeaningsNeverTouchThePeripheral := by
  intro i s t h
  obtain ⟨hmem, hrest⟩ := labelEnd_frame (exec_end h)
  exact ⟨fun a => by rw [hmem], hrest⟩

/-! The invariant over one step. -/

/-- A request inside the register map ends inside it (R61, R80). -/
theorem end_le_of_inMap {r : Request} (h : r.inMap = true) : r.start.toNat + r.len ≤ Config.nreg := by
  simp only [Request.inMap, decide_eq_true_eq] at h
  exact h.2

/-- A transaction inside the register map keeps the canonical form (R61). -/
theorem transport_wf (st : Status) {r : Request} {s : State} (hr : r.inMap = true) (h : s.mem.wf) : (transport st r s).mem.wf := by
  rcases transport_mem st r s with hmem | ⟨-, dev, start, w, w', rfl, hlen, hmem⟩
  · rwa [hmem]
  · rw [hmem]
    exact Memory.writeBurst_wf _ _ _ (hlen ▸ end_le_of_inMap hr) h

/-- A step from a coherent state leads to a coherent one. -/
theorem step_coherent {s t : State} (hcoh : coherent s = true) (h : step s = .next t) : coherent t = true := by
  cases step_end h with
  | issues c i rest hi hp hc ht => exact labelEnd_coherent_of_issue ht hp (quiet_of_idle hcoh hp)
  | answers st r i rest hi hb hc ht =>
    obtain ⟨d, hans, -⟩ := transport_answers st r { s with inputs := rest }
    exact labelEnd_coherent_of_answer ht (by simpa using busy_of_pending hcoh hb) hans (by simpa using hc)
  | _ => rename_i ht; subst ht; exact coherent_of_same hcoh (by simp) (by simp) (by simp) (by simp)

/-- A step from a state that meets the invariant keeps the registers in canonical form. -/
theorem step_wf {s t : State} (hinv : Inv s) (h : step s = .next t) : t.mem.wf := by
  obtain ⟨-, hwf, -⟩ := id hinv
  cases step_end h with
  | issues c i rest hi hp hc ht => rw [(labelEnd_frame ht).1]; exact hwf
  | answers st r i rest hi hb hc ht => rw [(labelEnd_frame ht).1]; exact transport_wf st (inMap_of_inv hinv hb) hwf
  | changes a v rest hi ht => subst ht; exact Memory.write_wf a v s.mem a.isLt hwf
  | _ => rename_i ht; subst ht; simpa using hwf

/-- Settles O3: the device address, the canonical form and the sequencer's coherence are each kept. -/
theorem stepKeepsInvariant : Obligations.StepKeepsInvariant := by
  intro s t hinv h
  obtain ⟨hdev, -, hcoh⟩ := id hinv
  exact ⟨(step_devAddr h).trans hdev, step_wf hinv h, step_coherent hcoh h⟩

/-! Requests (R62, R66, R81). -/

/-- A request outstanding in a state that meets the invariant has the shape of a command's request in its phase. -/
theorem requestIn_of_inv {s : State} {r : Request} (h : Inv s) (hb : s.bus = .pending r) :
    ∃ i, requestIn s.phase i = some (shapeOf r) := by
  obtain ⟨-, -, hcoh⟩ := h
  obtain ⟨i, -, hq, -⟩ := coherent_pending hcoh hb
  exact ⟨i, hq⟩

/-- Every request of a command is in the request table (R62). -/
theorem requestIn_mem_table {p : Phase} {i : Instr} {q : Shape} (h : requestIn p i = some q) :
    (q.dir, q.start, q.len) ∈
      ([(.write, 0x00, 3), (.read, 0x00, 3), (.write, 0x03, 4), (.read, 0x03, 4), (.write, 0x07, 4), (.read, 0x07, 4),
        (.write, 0x0B, 3), (.read, 0x0B, 3), (.write, 0x0E, 2), (.read, 0x0E, 2), (.read, 0x11, 2)] : List (Dir × Byte × Nat)) := by
  cases p <;> cases i <;> cases h <;> decide

/-- No request of a command covers the aging-offset register (R81). -/
theorem requestIn_avoids_aging {p : Phase} {i : Instr} {q : Shape} (h : requestIn p i = some q) :
    Outside q.start.toNat q.len 0x10 := by
  unfold Outside
  cases p <;> cases i <;> cases h <;> decide

/-- The outstanding request of a state that meets the invariant leaves the aging-offset register out. -/
theorem pending_avoids_aging {s : State} {r : Request} (h : Inv s) (hb : s.bus = .pending r) :
    Outside r.start.toNat r.len 0x10 := by
  obtain ⟨i, hq⟩ := requestIn_of_inv h hb
  cases r <;> exact requestIn_avoids_aging hq

/-- A transaction leaves every register outside its block as it was (R64, R68). -/
theorem transport_read_outside (st : Status) (r : Request) (s : State) {a : Nat} (h : Outside r.start.toNat r.len a) :
    (transport st r s).mem.read a = s.mem.read a := by
  rcases transport_mem st r s with hmem | ⟨-, dev, start, w, w', rfl, hlen, hmem⟩
  · rw [hmem]
  · rw [hmem]
    exact Memory.read_writeBurst_outside _ _ _ _ (hlen ▸ h)

/-- Settles O52: a request of the table leaves register 0x10 out, so no transaction changes it, and of the other steps only the
environment's change writes a register. -/
theorem agingNeverTouched : Obligations.AgingNeverTouched := by
  intro s t hinv h
  refine ⟨fun r hr => pending_avoids_aging (stepKeepsInvariant s t hinv h) hr, fun hno => ?_⟩
  cases step_end h with
  | issues c i rest hi hp hc ht => rw [(labelEnd_frame ht).1]
  | answers st r i rest hi hb hc ht =>
    rw [(labelEnd_frame ht).1]
    exact transport_read_outside st r { s with inputs := rest } (pending_avoids_aging hinv hb)
  | changes a v rest hi ht =>
    subst ht
    rw [changeReg_mem, Memory.read_write, if_neg (Ne.symm (hno a v rest hi))]
  | _ => rename_i ht; subst ht; simp

/-- Settles O53: the request outstanding after the step is one that the invariant allows. -/
theorem onlyTheSixBlocks : Obligations.OnlyTheSixBlocks := by
  intro s t r hinv h hr
  obtain ⟨hdev, hwf, hcoh⟩ := stepKeepsInvariant s t hinv h
  obtain ⟨i, -, hq, hd⟩ := coherent_pending hcoh hr
  exact ⟨hd.trans hdev, requestIn_mem_table hq⟩

/-! When a step stops, and what an answer leads to (R207). -/

/-- The answer to the request of a state that meets the invariant is taken: the label of the command in `cur` runs on it. -/
theorem step_answer_runs {s : State} {r : Request} {st : Status} {rest : List Input} (hinv : Inv s) (hb : s.bus = .pending r)
    (hi : s.inputs = .answer st :: rest) : ∃ i t d, step s = .next t ∧ LabelEnd i (transport st r { s with inputs := rest }) t ∧
      (transport st r { s with inputs := rest }).bus = .answered st d := by
  obtain ⟨-, -, hcoh⟩ := id hinv
  obtain ⟨i, hc, hq, -⟩ := coherent_pending hcoh hb
  obtain ⟨d, hans, hlen⟩ := transport_answers st r { s with inputs := rest }
  rw [if_pos (inMap_of_inv hinv hb)] at hans
  have hread : (shapeOf r).dir = .read → d.length = (shapeOf r).len := by
    cases r with
    | read dev start n => exact fun _ => hlen dev start n rfl
    | write dev start w => exact fun hdir => nomatch hdir
  obtain ⟨t, ht⟩ := exec_answered (i := i) hans (by simpa using hq) hread
  exact ⟨i, t, d, (step_answer hb hc hi).trans ht, exec_end ht, hans⟩

/-- An idle block takes every byte that the host writes to `CMD`. -/
theorem hostCommand_idle_runs (c : Byte) {s : State} (hp : s.phase = .idle) : ∃ t, hostCommand c s = .next t := by
  cases hc : decode c with
  | reserved w => exact ⟨_, hostCommand_reserved hp hc⟩
  | command i =>
    obtain rfl := decode_command_iff.1 hc
    rw [hostCommand_encode i hp]
    exact exec_idle i hp

/-- A step from a state that meets the invariant gives a next state, unless an answer meets an idle block. -/
theorem step_runs_or_unsolicited {s : State} (hinv : Inv s) :
    (∃ t, step s = .next t) ∨
      step s = .fault .unsolicitedAnswer ∧ s.phase = .idle ∧ ∃ st rest, s.inputs = .answer st :: rest := by
  obtain ⟨-, -, hcoh⟩ := id hinv
  cases hi : s.inputs with
  | nil => exact .inl ⟨s, step_nil hi⟩
  | cons x rest =>
    cases x with
    | cmd c =>
      left
      rw [step_cons hi]
      by_cases hp : s.phase = .idle
      · exact hostCommand_idle_runs c hp
      · exact ⟨_, hostCommand_busy c hp⟩
    | answer st =>
      by_cases hp : s.phase = .idle
      · refine .inr ⟨?_, hp, st, rest, rfl⟩
        rw [step_cons hi]
        exact takeAnswer_unsolicited st (by simp [quiet_of_idle hcoh hp])
      · obtain ⟨r, hb⟩ := pending_of_busy hcoh hp
        obtain ⟨-, t, -, ht, -⟩ := step_answer_runs hinv hb hi
        exact .inl ⟨t, ht⟩
    | _ => exact .inl ⟨_, step_cons hi⟩

/-- Settles O55: every other step gives a next state. -/
theorem onlyUnsolicitedAnswersStop : Obligations.OnlyUnsolicitedAnswersStop := by
  intro s hinv
  rcases step_runs_or_unsolicited hinv with ⟨t, ht⟩ | ⟨hf, hp, hi⟩
  · simp [ht]
  · simp [hf, hp, hi]

/-- Settles O48: of the labels that run on an answer one ends the command and the other, after a successful first answer, emits the
second request. -/
theorem failurePropagates : Obligations.FailurePropagates := by
  intro s st rest hinv hp hi
  obtain ⟨-, -, hcoh⟩ := id hinv
  obtain ⟨r, hb⟩ := pending_of_busy hcoh hp
  obtain ⟨i, t, d, ht, hend, hans⟩ := step_answer_runs hinv hb hi
  refine ⟨t, ht, ?_⟩
  cases hend with
  | waits _ hno => exact absurd hans (hno st d)
  | pure hidle => exact absurd (by simpa using hidle) hp
  | issued hidle => exact absurd (by simpa using hidle) hp
  | second hwait d' hb' q buf _ _ ht =>
    obtain ⟨rfl, -⟩ := Bus.answered.inj (hans.symm.trans hb')
    exact .inr ⟨by rw [ht], by simpa using hwait, rfl⟩
  | ended _ st' d' hb' b n _ ht =>
    obtain ⟨rfl, -⟩ := Bus.answered.inj (hans.symm.trans hb')
    exact .inl ⟨by rw [ht, finish_phase], by rw [ht, finish_status]⟩

/-! `ILL` and the registers that only the host writes (R28, R36). -/

/-- Settles O49: `ISSUE` clears it, `raise Illegal` sets it, and no label of a busy block writes it. -/
theorem illOnlyFromIssue : Obligations.IllOnlyFromIssue := by
  refine ⟨fun s c rest hp hi => ?_, fun s t hinv h hno => ?_⟩
  · cases hc : decode c with
    | command i =>
      obtain rfl := decode_command_iff.1 hc
      obtain ⟨t, ht⟩ := exec_idle i (s := { s with inputs := rest }) hp
      exact ⟨t, (step_cmd i hp hi).trans ht, fun _ => labelEnd_ill_of_idle (exec_end ht) hp, fun ⟨_, hw⟩ => nomatch hw⟩
    | reserved w =>
      exact ⟨_, (step_cons hi).trans (hostCommand_reserved (s := { s with inputs := rest }) hp hc),
        fun ⟨_, hi⟩ => (nomatch hi), fun _ => rfl⟩
  · obtain ⟨-, -, hcoh⟩ := hinv
    cases step_end h with
    | issues c i rest hi hp => exact absurd hi (hno.resolve_left (not_not.2 hp) c rest)
    | illegal c w rest hi hp => exact absurd hi (hno.resolve_left (not_not.2 hp) c rest)
    | answers st r i rest hi hb hc ht =>
      simpa using labelEnd_ill_of_busy ht (by simpa using busy_of_pending hcoh hb)
    | _ => rename_i ht; subst ht; simp

/-- A 1-bit register is none of `BIN` and the masks. -/
theorem putBit_keepsHostOnly (r : BitReg) (v : Bit) (b : Bank) : KeepsHostOnly b (putBit r v b) := by
  cases r <;> exact ⟨rfl, rfl, rfl⟩

/-- Settles O50: no label writes them, and of the host's writes only that of an 8-bit register does. -/
theorem hostOnlyRegisters : Obligations.HostOnlyRegisters := by
  intro s t h hno
  cases step_end h with
  | issues c i rest hi hp hc ht => simpa [KeepsHostOnly] using labelEnd_keepsHostOnly ht
  | answers st r i rest hi hb hc ht => simpa [KeepsHostOnly] using labelEnd_keepsHostOnly ht
  | writesByte r v rest hi => exact absurd hi (hno r v rest)
  | writesBit r v rest hi ht =>
    subst ht
    unfold hostWrite
    split
    · exact putBit_keepsHostOnly r v s.bank
    · exact ⟨rfl, rfl, rfl⟩
  | _ => rename_i ht; subst ht; simp

end Sys2Proof.Invariant

/-! The BCD codec's other direction, its commands and its round trips (spec/40_bcd_codec.md R140 to R145). -/

namespace Sys2Proof.Codec

open Sys2Proof.Machine Sys2Proof.Safety

/-- `to_bcd` is the tens digit times 16 plus the units digit, cut to 8 bits: the digits do not overlap. -/
theorem toBcd_eq (v : Byte) : toBcd v = BitVec.ofNat 8 (v.toNat / 10 * 16 + v.toNat % 10) := by
  have hdigit : v.toNat % 10 < 2 ^ 4 := by omega
  rw [toBcd, ← Nat.shiftLeft_add_eq_or_of_lt hdigit, Nat.shiftLeft_eq]

/-- `to_bcd` over the natural numbers (R140; the cut is the spec's D5). -/
theorem toNat_toBcd (v : Byte) : (toBcd v).toNat = (v.toNat / 10 * 16 + v.toNat % 10) % 256 := by
  rw [toBcd_eq, BitVec.toNat_ofNat]

/-- `from_bcd` as the number of its formula. -/
theorem fromBcd_eq (b : Byte) : fromBcd b = BitVec.ofNat 8 (b.toNat / 16 * 10 + b.toNat % 16) := by
  apply BitVec.eq_of_toNat_eq
  rw [toNat_fromBcd, BitVec.toNat_ofNat]
  omega

/-- Settles O17: the pure command of `to_bcd`, whose digits are side by side. -/
theorem toBcdCommand : Obligations.ToBcdCommand := by
  intro s h
  rw [← toBcd_eq]
  exact pureCommand_idle toBcd h

/-- Settles O18: the pure command of `from_bcd`. -/
theorem fromBcdCommand : Obligations.FromBcdCommand := by
  intro s h
  rw [← fromBcd_eq]
  exact pureCommand_idle fromBcd h

/-- A value below 160 survives the codec (R145). -/
theorem fromBcd_toBcd {v : Byte} (h : v.toNat < 160) : fromBcd (toBcd v) = v := by
  apply BitVec.eq_of_toNat_eq
  rw [toNat_fromBcd, toNat_toBcd]
  omega

/-- From 160 on the tens digit loses its bit of weight 16, which is worth 160 (R145; the spec's D5). -/
theorem toNat_fromBcd_toBcd_of_le {v : Byte} (h : 160 ≤ v.toNat) : (fromBcd (toBcd v)).toNat = v.toNat - 160 := by
  rw [toNat_fromBcd, toNat_toBcd]
  omega

/-- A byte survives decoding and encoding exactly when its low nibble is a digit (R145). -/
theorem toBcd_fromBcd_iff (b : Byte) : toBcd (fromBcd b) = b ↔ b.toNat % 16 ≤ 9 := by
  rw [BitVec.toNat_eq, toNat_toBcd, toNat_fromBcd]
  omega

/-- Settles O20: the formulas over the natural numbers, with the digits' ranges. -/
theorem codecRoundTrips : Obligations.CodecRoundTrips :=
  ⟨fun _ => fromBcd_toBcd, fun _ => toNat_fromBcd_toBcd_of_le, toBcd_fromBcd_iff⟩

end Sys2Proof.Codec

/-! The register byte formats (spec/30_encoding.md part 2) and the field functions (spec/41_field_codec.md) over natural numbers. -/

namespace Sys2Proof.FieldCodec

open Sys2Proof.Machine Sys2Proof.Safety Sys2Proof.Codec

/-! Fields of a byte. -/

/-- Two fields side by side are a sum without a carry. -/
theorem toNat_append_fields {m n : Nat} (x : BitVec m) (y : BitVec n) : (x ++ y).toNat = x.toNat * 2 ^ n + y.toNat := by
  rw [BitVec.toNat_append, ← Nat.shiftLeft_add_eq_or_of_lt y.isLt, Nat.shiftLeft_eq]

theorem toNat_field (b : Byte) (lo w : Nat) : (field b lo w).toNat = b.toNat / 2 ^ lo % 2 ^ w := by
  rw [field, BitVec.extractLsb'_toNat, Nat.shiftRight_eq_div_pow]

/-- The BCD value of a field is that of the byte cut to the field (R107). -/
theorem toNat_bcdField (b : Byte) {w : Nat} (hw : w ≤ 8) :
    (bcdField b w).toNat = b.toNat % 2 ^ w / 16 * 10 + b.toNat % 2 ^ w % 16 := by
  rw [bcdField, toNat_fromBcd, BitVec.toNat_setWidth_of_le hw, toNat_field, pow_zero, Nat.div_one]

/-- A one-bit field is set exactly when its number is 1. -/
theorem field_eq_one_iff (b : Byte) (lo : Nat) : field b lo 1 = 1 ↔ b.toNat / 2 ^ lo % 2 = 1 := by
  rw [BitVec.toNat_eq, toNat_field]
  rfl

theorem bit_eq_zero_or_one (b : Bit) : b = 0 ∨ b = 1 := BitVec.eq_zero_or_eq_one b

/-! Seconds, minutes and hours (R108, R109, R151 to R153). -/

theorem toNat_encSm (v : Byte) : (encSm v).toNat = (toBcd v).toNat % 128 := by
  have h : (encSm v).toNat = 0 * 128 + (field (toBcd v) 0 7).toNat := toNat_append_fields 0#1 _
  rw [h, toNat_field]
  omega

theorem toNat_decSm (b : Byte) : (decSm b).toNat = b.toNat % 128 / 16 * 10 + b.toNat % 16 := by
  rw [decSm, toNat_bcdField b (by decide)]
  omega

theorem toNat_encHr_12h (h : Byte) (f : Bit) : (encHr h 1 f).toNat = 64 + 32 * f.toNat + (toBcd h).toNat % 32 := by
  have hflag : (1#1 ++ f).toNat = 1 * 2 + f.toNat := toNat_append_fields 1#1 f
  have hall : (encHr h 1 f).toNat = (1#1 ++ f).toNat * 32 + (field (toBcd h) 0 5).toNat := toNat_append_fields (1#1 ++ f) _
  rw [hall, hflag, toNat_field]
  omega

theorem toNat_encHr_24h (h : Byte) (f : Bit) : (encHr h 0 f).toNat = (toBcd h).toNat % 64 := by
  have hall : (encHr h 0 f).toNat = 0 * 64 + (field (toBcd h) 0 6).toNat := toNat_append_fields 0#1 _
  rw [hall, toNat_field]
  omega

theorem decHr_12h {b : Byte} (h : b.toNat / 64 % 2 = 1) : decHr b = (bcdField b 5, 1, field b 5 1) :=
  if_pos ((field_eq_one_iff b 6).2 h)

theorem decHr_24h {b : Byte} (h : b.toNat / 64 % 2 = 0) : decHr b = (bcdField b 6, 0, 0) :=
  if_neg fun hone => by have := (field_eq_one_iff b 6).1 hone; omega

/-- What an hours byte decodes to, in either mode, whatever its bit 7. -/
theorem decHr_fields (b : Byte) :
    (decHr b).2.1.toNat = b.toNat / 64 % 2 ∧
      ((decHr b).2.1 = 1 → (decHr b).2.2.toNat = b.toNat / 32 % 2 ∧
        (decHr b).1.toNat = b.toNat % 32 / 16 * 10 + b.toNat % 16) ∧
      ((decHr b).2.1 = 0 → (decHr b).2.2 = 0 ∧ (decHr b).1.toNat = b.toNat % 64 / 16 * 10 + b.toNat % 16) := by
  have hfive := toNat_bcdField b (w := 5) (by decide)
  have hsix := toNat_bcdField b (w := 6) (by decide)
  rcases Nat.mod_two_eq_zero_or_one (b.toNat / 64) with h | h
  · rw [decHr_24h h, h]
    exact ⟨rfl, fun hmode => absurd hmode (by simp), fun _ => ⟨rfl, by dsimp only; omega⟩⟩
  · rw [decHr_12h h, h]
    exact ⟨rfl, fun _ => ⟨toNat_field b 5 1, by dsimp only; omega⟩, fun hmode => absurd hmode (by simp)⟩

/-- An hour that fits its mode survives, whatever is above it (R170). -/
theorem decHr_of_low {b h : Byte} {mode ampm : Bit}
    (hfits : mode = 1 ∧ h.toNat < 20 ∨ mode = 0 ∧ h.toNat < 40 ∧ ampm = 0)
    (hb : b.toNat % 128 = (encHr h mode ampm).toNat) : decHr b = (h, mode, ampm) := by
  have hbcd := toNat_toBcd h
  have h5 := toNat_bcdField b (w := 5) (by decide)
  have h6 := toNat_bcdField b (w := 6) (by decide)
  rcases hfits with ⟨rfl, hh⟩ | ⟨rfl, hh, rfl⟩
  · rw [toNat_encHr_12h] at hb
    have hf := ampm.isLt
    have hhr : bcdField b 5 = h := BitVec.eq_of_toNat_eq (by omega)
    have hampm : field b 5 1 = ampm := BitVec.eq_of_toNat_eq (by rw [toNat_field]; omega)
    rw [decHr_12h (by omega), hhr, hampm]
  · rw [toNat_encHr_24h] at hb
    have hhr : bcdField b 6 = h := BitVec.eq_of_toNat_eq (by omega)
    rw [decHr_24h (by omega), hhr]

/-- Seconds or minutes that fit survive, below any top bit (R170). -/
theorem decSm_of_low {b v : Byte} (hv : v.toNat < 80) (hb : b.toNat % 128 = (toBcd v).toNat % 128) : decSm b = v := by
  have hbcd := toNat_toBcd v
  apply BitVec.eq_of_toNat_eq
  rw [toNat_decSm]
  omega

/-! The time block (R154, R155). -/

theorem decTime_bytes (b0 b1 b2 : Byte) : decTime [b0, b1, b2] =
    some { sec := decSm b0, min := decSm b1, hr := (decHr b2).1, mode := (decHr b2).2.1, ampm := (decHr b2).2.2 } := rfl

/-- The hours byte of the time block: bit 7 is 0. -/
theorem toNat_encHr_time (h : Byte) (mode ampm : Bit) : (0#1 ++ encHr h mode ampm).toNat = (encHr h mode ampm).toNat := by
  have hall : (0#1 ++ encHr h mode ampm).toNat = 0 * 128 + (encHr h mode ampm).toNat := toNat_append_fields 0#1 _
  omega

/-- Settles O34: the bytes are the field functions, each a number. -/
theorem encodedTimeBytes : Obligations.EncodedTimeBytes := by
  intro t
  refine ⟨_, _, _, rfl, toNat_encSm t.sec, toNat_encSm t.min, fun h => ?_, fun h => ?_⟩
  · rw [toNat_encHr_time, h, toNat_encHr_12h]
  · rw [toNat_encHr_time, h, toNat_encHr_24h]

/-- Settles O35: the fields are those of the field functions. -/
theorem decodedTimeFields : Obligations.DecodedTimeFields :=
  fun b0 b1 b2 => ⟨_, decTime_bytes b0 b1 b2, toNat_decSm b0, toNat_decSm b1, decHr_fields b2⟩

/-- Settles O39: seconds, minutes and the hour each survive. -/
theorem timeRoundTrip : Obligations.TimeRoundTrip := by
  rintro t ⟨hsec, hmin, hhr⟩
  have hlow (v : Byte) : (encSm v).toNat % 128 = (toBcd v).toNat % 128 := by rw [toNat_encSm, Nat.mod_mod]
  have hlowHr : (0#1 ++ encHr t.hr t.mode t.ampm).toNat % 128 = (encHr t.hr t.mode t.ampm).toNat := by
    rw [toNat_encHr_time, Nat.mod_eq_of_lt (encHr t.hr t.mode t.ampm).isLt]
  rw [encTime, decTime_bytes, decSm_of_low hsec (hlow _), decSm_of_low hmin (hlow _), decHr_of_low hhr hlowHr]

/-! Bit 7 of the time registers (R108, R109, R115). -/

/-- A field inside the low 7 bits is the same for two bytes with the same low 7 bits. -/
theorem field_eq_of_low7 {b c : Byte} (h : field b 0 7 = field c 0 7) {lo w : Nat} (hlw : lo + w ≤ 7) :
    field b lo w = field c lo w := by
  apply BitVec.eq_of_getLsbD_eq
  intro k hk
  have hbit := congrArg (fun x => x.getLsbD (lo + k)) h
  have hlo : lo + k < 7 := by omega
  simpa [field, hlo, hk] using hbit

/-- A time decodes from the low 7 bits of its bytes. -/
theorem decTime_eq_of_low7 {b0 b1 b2 c0 c1 c2 : Byte} (h0 : field b0 0 7 = field c0 0 7) (h1 : field b1 0 7 = field c1 0 7)
    (h2 : field b2 0 7 = field c2 0 7) : decTime [b0, b1, b2] = decTime [c0, c1, c2] := by
  have hsix := field_eq_of_low7 h2 (lo := 6) (w := 1) (by decide)
  have hfive := field_eq_of_low7 h2 (lo := 5) (w := 1) (by decide)
  have h12 := field_eq_of_low7 h2 (lo := 0) (w := 5) (by decide)
  have h24 := field_eq_of_low7 h2 (lo := 0) (w := 6) (by decide)
  simp only [decTime_bytes, decSm, decHr, bcdField, h0, h1, hsix, hfive, h12, h24]

theorem low7_or_top (b : Byte) : field (b ||| 0x80) 0 7 = field b 0 7 := by
  rw [field, BitVec.extractLsb'_or, show BitVec.extractLsb' 0 7 (0x80 : Byte) = 0#7 from rfl, BitVec.or_zero]
  rfl

theorem low7_and_low7 (b : Byte) : field (b &&& 0x7F) 0 7 = field b 0 7 := by
  rw [field, BitVec.extractLsb'_and, show BitVec.extractLsb' 0 7 (0x7F : Byte) = BitVec.allOnes 7 from rfl, BitVec.and_allOnes]
  rfl

/-- Settles O38: every format of the time block has 7 bits, written below a 0 and read without the top bit. -/
theorem reservedBitsZeroAndIgnored : Obligations.ReservedBitsZeroAndIgnored := by
  refine ⟨fun t b hb => ?_, fun b0 b1 b2 => decTime_eq_of_low7 (low7_or_top b0) (low7_or_top b1) (low7_or_top b2),
    fun _ => rfl, fun _ _ _ _ => rfl⟩
  have hhr := (encHr t.hr t.mode t.ampm).isLt
  have hb : b = encSm t.sec ∨ b = encSm t.min ∨ b = 0#1 ++ encHr t.hr t.mode t.ampm := by simpa [encTime] using hb
  rcases hb with rfl | rfl | rfl
  · rw [toNat_encSm]; omega
  · rw [toNat_encSm]; omega
  · rw [toNat_encHr_time]; exact hhr

/-! The calendar block (R156, R157). -/

/-- Settles O40: each byte is the whole BCD value of a field below 160. -/
theorem calendarRoundTrip : Obligations.CalendarRoundTrip := by
  rintro c ⟨hday, hdate, hmonth, hyear⟩
  rw [encCal, decCal, fromBcd_toBcd hday, fromBcd_toBcd hdate, fromBcd_toBcd hmonth, fromBcd_toBcd hyear]

/-! The alarm blocks (R158 to R165). -/

theorem toNat_encAsm (am : Bit) (v : Byte) : (encAsm am v).toNat = 128 * am.toNat + (toBcd v).toNat % 128 := by
  have hall : (encAsm am v).toNat = am.toNat * 128 + (field (toBcd v) 0 7).toNat := toNat_append_fields am _
  rw [hall, toNat_field]
  omega

theorem toNat_encAhr (am : Bit) (h : Byte) (mode f : Bit) :
    (encAhr am h mode f).toNat = 128 * am.toNat + (encHr h mode f).toNat := by
  have hall : (encAhr am h mode f).toNat = am.toNat * 128 + (encHr h mode f).toNat := toNat_append_fields am _
  omega

theorem toNat_encAdd (am dydt : Bit) (day date : Byte) : (encAdd am dydt day date).toNat =
    128 * am.toNat + 64 * dydt.toNat + (toBcd (if dydt = 1 then day else date)).toNat % 64 := by
  have hflags : (am ++ dydt).toNat = am.toNat * 2 + dydt.toNat := toNat_append_fields am dydt
  have hall : (encAdd am dydt day date).toNat =
      (am ++ dydt).toNat * 64 + (field (toBcd (if dydt = 1 then day else date)) 0 6).toNat := toNat_append_fields (am ++ dydt) _
  rw [hall, hflags, toNat_field]
  omega

/-- Settles O36: Alarm 2's bytes are the last three of Alarm 1's, each a number. -/
theorem encodedAlarmBytes : Obligations.EncodedAlarmBytes := by
  intro a
  refine ⟨_, _, _, _, rfl, rfl, toNat_encAsm _ _, toNat_encAsm _ _, fun h => ?_, fun h => ?_, toNat_encAdd _ _ _ _⟩
  · rw [toNat_encAhr, h, toNat_encHr_12h]; omega
  · rw [toNat_encAhr, h, toNat_encHr_24h]

theorem decAlarm1_bytes (u b0 b1 b2 b3 : Byte) : decAlarm1 u [b0, b1, b2, b3] = some
    { sec := decSm b0, min := decSm b1, hr := (decHr b2).1, day := (decAdd u b3).2.2.1, date := (decAdd u b3).2.2.2
      am1 := field b0 7 1, am2 := field b1 7 1, am3 := field b2 7 1, am4 := (decAdd u b3).1, dydt := (decAdd u b3).2.1
      mode := (decHr b2).2.1, ampm := (decHr b2).2.2 } := rfl

/-- Alarm 2 decodes as Alarm 1 with its seconds and am1 the free values (R165), whatever the first byte of Alarm 1. -/
theorem decAlarm2_bytes (u x : Byte) (f : Bit) (b0 b1 b2 b3 : Byte) :
    decAlarm2 u x f [b1, b2, b3] = (decAlarm1 u [b0, b1, b2, b3]).map fun a => { a with sec := x, am1 := f } := rfl

theorem decAdd_day (u : Byte) {b : Byte} (h : b.toNat / 64 % 2 = 1) : decAdd u b = (field b 7 1, 1, bcdField b 6, u) :=
  if_pos ((field_eq_one_iff b 6).2 h)

theorem decAdd_date (u : Byte) {b : Byte} (h : b.toNat / 64 % 2 = 0) : decAdd u b = (field b 7 1, 0, u, bcdField b 6) :=
  if_neg fun hone => by have := (field_eq_one_iff b 6).1 hone; omega

theorem toNat_topBit (b : Byte) : (field b 7 1).toNat = b.toNat / 128 := by
  rw [toNat_field]
  omega

/-- What the day and date byte decodes to, for either selector (R161). -/
theorem decAdd_fields (u b : Byte) :
    (decAdd u b).1.toNat = b.toNat / 128 ∧ (decAdd u b).2.1.toNat = b.toNat / 64 % 2 ∧
      ((decAdd u b).2.1 = 1 → (decAdd u b).2.2.1.toNat = b.toNat % 64 / 16 * 10 + b.toNat % 16 ∧ (decAdd u b).2.2.2 = u) ∧
      ((decAdd u b).2.1 = 0 → (decAdd u b).2.2.2.toNat = b.toNat % 64 / 16 * 10 + b.toNat % 16 ∧ (decAdd u b).2.2.1 = u) := by
  have hsix := toNat_bcdField b (w := 6) (by decide)
  rcases Nat.mod_two_eq_zero_or_one (b.toNat / 64) with h | h
  · rw [decAdd_date u h, h]
    exact ⟨toNat_topBit b, rfl, fun hsel => absurd hsel (by simp), fun _ => ⟨by dsimp only; omega, rfl⟩⟩
  · rw [decAdd_day u h, h]
    exact ⟨toNat_topBit b, rfl, fun _ => ⟨by dsimp only; omega, rfl⟩, fun hsel => absurd hsel (by simp)⟩

/-- Settles O37: the fields are those of the field functions. -/
theorem decodedAlarmFields : Obligations.DecodedAlarmFields := by
  intro u x f b0 b1 b2 b3
  obtain ⟨hmode, h12, h24⟩ := decHr_fields b2
  exact ⟨_, decAlarm1_bytes u b0 b1 b2 b3, decAlarm2_bytes u x f b0 b1 b2 b3, toNat_topBit b0, toNat_decSm b0, toNat_topBit b1,
    toNat_decSm b1, toNat_topBit b2, hmode, h12, h24, decAdd_fields u b3⟩

/-- The top bit of a byte that a flag was put on. -/
theorem topBit_of_toNat {b : Byte} {am : Bit} {n : Nat} (h : b.toNat = 128 * am.toNat + n) (hn : n < 128) : field b 7 1 = am := by
  apply BitVec.eq_of_toNat_eq
  rw [toNat_topBit]
  omega

/-- A value that fits the day and date field survives in its low 6 bits. -/
theorem bcdField_of_low6 {b v : Byte} (hv : v.toNat < 40) (hb : b.toNat % 64 = (toBcd v).toNat % 64) : bcdField b 6 = v := by
  have hbcd := toNat_toBcd v
  have h6 := toNat_bcdField b (w := 6) (by decide)
  exact BitVec.eq_of_toNat_eq (by omega)

/-- The selected one of day and date survives when it is below 40, the other is the free value (R170). -/
theorem decAdd_encAdd (u : Byte) (am dydt : Bit) {day date : Byte}
    (hfits : if dydt = 1 then day.toNat < 40 else date.toNat < 40) :
    decAdd u (encAdd am dydt day date) = (am, dydt, if dydt = 1 then day else u, if dydt = 1 then u else date) := by
  have hbyte := toNat_encAdd am dydt day date
  have htop : field (encAdd am dydt day date) 7 1 = am :=
    topBit_of_toNat (hbyte.trans (Nat.add_assoc _ _ _)) (by have := dydt.isLt; omega)
  rcases bit_eq_zero_or_one dydt with rfl | rfl
  · have hbyte : (encAdd am 0 day date).toNat = 128 * am.toNat + (toBcd date).toNat % 64 := hbyte
    rw [decAdd_date u (by omega), htop, bcdField_of_low6 (v := date) hfits (by omega)]
    rfl
  · have hbyte : (encAdd am 1 day date).toNat = 128 * am.toNat + 64 + (toBcd day).toNat % 64 := hbyte
    rw [decAdd_day u (by omega), htop, bcdField_of_low6 (v := day) hfits (by omega)]
    rfl

/-- Seconds or minutes of an alarm that fit survive. -/
theorem decSm_encAsm (am : Bit) {v : Byte} (hv : v.toNat < 80) : decSm (encAsm am v) = v :=
  decSm_of_low hv (by rw [toNat_encAsm]; omega)

theorem topBit_encAsm (am : Bit) (v : Byte) : field (encAsm am v) 7 1 = am :=
  topBit_of_toNat (toNat_encAsm am v) (by omega)

theorem topBit_encAhr (am : Bit) (h : Byte) (mode f : Bit) : field (encAhr am h mode f) 7 1 = am :=
  topBit_of_toNat (toNat_encAhr am h mode f) (encHr h mode f).isLt

/-- The hour of an alarm that fits its mode survives. -/
theorem decHr_encAhr (am : Bit) {h : Byte} {mode ampm : Bit}
    (hfits : mode = 1 ∧ h.toNat < 20 ∨ mode = 0 ∧ h.toNat < 40 ∧ ampm = 0) :
    decHr (encAhr am h mode ampm) = (h, mode, ampm) :=
  decHr_of_low hfits (by have := (encHr h mode ampm).isLt; rw [toNat_encAhr]; omega)

/-- An encoded Alarm 1 decodes to the alarm, with the unselected one of day and date the free value and the seconds those of its first
byte. -/
theorem decAlarm1_encAlarm1 (u : Byte) {a : Alarm} (h : AlarmFits a) : decAlarm1 u (encAlarm1 a) =
    some { a with
      sec := decSm (encAsm a.am1 a.sec)
      day := if a.dydt = 1 then a.day else u, date := if a.dydt = 1 then u else a.date } := by
  obtain ⟨hmin, hhr, hadd⟩ := h
  rw [encAlarm1, decAlarm1_bytes, decSm_encAsm a.am2 hmin, decHr_encAhr a.am3 hhr, decAdd_encAdd u a.am4 a.dydt hadd,
    topBit_encAsm, topBit_encAsm, topBit_encAhr]

/-- Settles O41: an encoded alarm decodes field by field; Alarm 2 is Alarm 1 but for the first byte. -/
theorem alarmRoundTrip : Obligations.AlarmRoundTrip := by
  intro u x f a hfits
  have hall := decAlarm1_encAlarm1 u hfits
  refine ⟨fun hsec => ?_, ?_⟩
  · rw [hall, decSm_encAsm a.am1 hsec]
  · rw [encAlarm2, decAlarm2_bytes u x f (encAsm a.am1 a.sec), ← encAlarm1, hall]
    rfl

/-! The merge (R169). -/

/-- Settles O42: the old value's bit under the inverted mask, or the new one's under the mask. -/
theorem mergeTakesMaskedBits : Obligations.MergeTakesMaskedBits := by
  intro old new mask k hk
  rw [merge, BitVec.getLsbD_or, BitVec.getLsbD_and, BitVec.getLsbD_and, BitVec.getLsbD_not]
  cases mask.getLsbD k <;> simp [hk]

end Sys2Proof.FieldCodec

/-! Transactions (spec/20_memory.md R64, R65, R80) and runs of the machine from the issue of a command to its answers. -/

namespace Sys2Proof.Commands

open Sys2Proof.Machine Sys2Proof.Safety Sys2Proof.Encoding Sys2Proof.Port Sys2Proof.Invariant

/-! Transactions. -/

/-- A read in the map changes no register. -/
theorem transport_read_mem (st : Status) (dev : BitVec 7) (start : Byte) (n : Nat) (s : State) :
    (transport st (.read dev start n) s).mem = s.mem := by
  rcases transport_mem st (.read dev start n) s with hmem | ⟨-, _, _, _, _, hr, -⟩
  · exact hmem
  · cases hr

/-- A read in the map is answered with the given status and as many bytes as were asked for. -/
theorem transport_read_answers (st : Status) {dev : BitVec 7} {start : Byte} {n : Nat} (s : State)
    (h : (Request.read dev start n).inMap = true) :
    ∃ d, (transport st (.read dev start n) s).bus = .answered st d ∧ d.length = n ∧
      (st = 0 → d = s.mem.readBurst start.toNat n) := by
  by_cases hst : st = 0
  · subst hst
    rw [transport_read_ok dev start n s h]
    exact ⟨_, rfl, Memory.length_readBurst _ _ _, fun _ => rfl⟩
  · rw [transport_read_failed hst dev start n s h]
    exact ⟨_, rfl, length_freeBytes _ _, fun h0 => absurd h0 hst⟩

/-- A write in the map is answered with the given status and no bytes. -/
theorem transport_write_answers (st : Status) {dev : BitVec 7} {start : Byte} {w : List Byte} (s : State)
    (h : (Request.write dev start w).inMap = true) : (transport st (.write dev start w) s).bus = .answered st [] := by
  by_cases hst : st = 0
  · subst hst
    rw [transport_write_ok dev start w s h]
  · rw [transport_write_failed hst dev start w s h]
    rfl

/-- Settles O12: the bytes of a successful read are the burst of the addressed registers. -/
theorem readTransactionDelivers : Obligations.ReadTransactionDelivers := by
  intro s dev start n st h
  obtain ⟨d, hb, hlen, hok⟩ := transport_read_answers st s h
  refine ⟨transport_read_mem st dev start n s, d, hb, hlen, fun hst k hk => ?_⟩
  rw [hok hst]
  exact Memory.getElem?_readBurst _ _ _ _ hk

/-- Settles O13: a write in the map stores a burst, one outside it nothing. -/
theorem writeTransactionStores : Obligations.WriteTransactionStores := by
  intro s dev start w st
  refine ⟨fun h => ⟨transport_write_answers st s h, fun hst k hk => ?_, fun a ha => ?_⟩, fun h => ?_⟩
  · subst hst
    rw [transport_write_ok dev start w s h]
    exact Memory.read_writeBurst_inside _ _ _ _ hk
  · exact transport_read_outside st (.write dev start w) s ha
  · simp [transport, h, noDevice]

/-- A read of the block's device that ends inside the register map is in the map. -/
theorem inMap_read {start : Byte} {n : Nat} (h : start.toNat + n ≤ Config.nreg) :
    (Request.read Config.devAddr start n).inMap = true := by
  simpa [Request.inMap, Request.dev, Request.start, Request.len] using h

/-- A write to the block's device that ends inside the register map is in the map. -/
theorem inMap_write {start : Byte} {w : List Byte} (h : start.toNat + w.length ≤ Config.nreg) :
    (Request.write Config.devAddr start w).inMap = true := by
  simpa [Request.inMap, Request.dev, Request.start, Request.len] using h

/-! Runs. -/

/-- The issue of a command by an idle block is the first of `k + 1` steps. -/
theorem steps_issue {i : Instr} {s u : State} {rest : List Input} (hp : s.phase = .idle) (hi : s.inputs = .cmd (encode i) :: rest)
    (hu : exec i { s with inputs := rest } = .next u) (k : Nat) : steps (k + 1) s = steps k u :=
  steps_next ((step_cmd i hp hi).trans hu) k

/-- The answer to an outstanding request is the first of `k + 1` steps. -/
theorem steps_answer {i : Instr} {s t : State} {r : Request} {st : Status} {rest : List Input} (hb : s.bus = .pending r)
    (hc : s.cur = encode i) (hi : s.inputs = .answer st :: rest)
    (ht : exec i (transport st r { s with inputs := rest }) = .next t) (k : Nat) : steps (k + 1) s = steps k t :=
  steps_next ((step_answer hb (hc ▸ decode_encode i) hi).trans ht) k

/-- A run that answers a next state goes on from that state. -/
theorem steps_add {m : Nat} {s t : State} (h : steps m s = .next t) (n : Nat) : steps (m + n) s = steps n t := by
  induction m generalizing s with
  | zero => cases h; rw [Nat.zero_add]
  | succ m ih =>
    rw [Nat.add_right_comm]
    cases hstep : step s with
    | next u =>
      rw [steps_next hstep] at h ⊢
      exact ih h
    | fault f => rw [steps_fault hstep] at h; cases h
    | refused r => rw [steps_refused hstep] at h; cases h

/-- No run changes the device address (R25). -/
theorem steps_devAddr {k : Nat} {s t : State} (h : steps k s = .next t) : t.devAddr = s.devAddr := by
  induction k generalizing s with
  | zero => cases h; rfl
  | succ k ih =>
    cases hstep : step s with
    | next u =>
      rw [steps_next hstep] at h
      exact (ih h).trans (step_devAddr hstep)
    | fault f => rw [steps_fault hstep] at h; cases h
    | refused r => rw [steps_refused hstep] at h; cases h

/-- The end of a command over a bank that differs from the one at the answer. -/
theorem finish_finished_of_bank (st : Status) (s : State) (b : Bank) (k : Nat) :
    Finished s (finish st { s with bank := b, draws := k }) st b :=
  finish_finished st { s with bank := b, draws := k }

/-! The two shapes of a bus command (R180, R200). -/

/-- The block waits for the answer to `r` inside command `i`, which it issued in `s`; `rest` is what follows that answer. -/
def waiting (i : Instr) (r : Request) (s : State) (rest : List Input) : State :=
  issue (encode i) r { s with inputs := rest }

/-- A command of one request takes two steps: it is issued, and its answer carries the request out and ends it. -/
theorem steps_issue_answer {i : Instr} {r : Request} {s t : State} {st : Status} {rest : List Input} (hp : s.phase = .idle)
    (hi : s.inputs = .cmd (encode i) :: .answer st :: rest)
    (hissue : exec i { s with inputs := .answer st :: rest } = .next (waiting i r s (.answer st :: rest)))
    (ht : exec i (transport st r (waiting i r s rest)) = .next t) : steps 2 s = .next t := by
  rw [steps_issue hp hi hissue, steps_answer rfl rfl rfl ht]
  rfl

section Write
variable {i : Instr} {start : Byte} {bytes : Bank → List Byte}

/-- From issue to answer a write command stores its bytes and leaves every register outside its block alone. -/
theorem write_run (hexec : ∀ s, exec i s = writeCommand (encode i) start (bytes s.bank) s) {s : State} {st : Status}
    {rest : List Input} (hr : (Request.write s.devAddr start (bytes s.bank)).inMap = true) (hp : s.phase = .idle)
    (hi : s.inputs = .cmd (encode i) :: .answer st :: rest) :
    ∃ t, steps 2 s = .next t ∧ t.phase = .idle ∧ t.status = st ∧ t.ill = 0 ∧ t.bank = s.bank ∧ t.inputs = rest ∧
      (st = 0 → t.mem.readBurst start.toNat (bytes s.bank).length = bytes s.bank) ∧
      ∀ a, Outside start.toNat (bytes s.bank).length a → t.mem.read a = s.mem.read a := by
  have hans := transport_write_answers st (waiting i (.write s.devAddr start (bytes s.bank)) s rest) hr
  refine ⟨_, steps_issue_answer hp hi ((hexec _).trans (writeCommand_idle _ _ _ hp))
      ((hexec _).trans (writeCommand_answered _ _ _ (transport_phase _ _ _) hans)),
    rfl, rfl, transport_ill _ _ _, transport_bank _ _ _, transport_inputs _ _ _, fun hst => ?_,
    fun a ha => transport_read_outside st _ _ ha⟩
  rw [finish_mem, hst, transport_write_ok _ _ _ _ hr]
  exact Memory.readBurst_writeBurst _ _ _

/-- A command whose meaning is one write inside the register map is a write command, label by label and as a whole. -/
theorem isWriteCommand (hexec : ∀ s, exec i s = writeCommand (encode i) start (bytes s.bank) s)
    (hmap : ∀ b, start.toNat + (bytes b).length ≤ Config.nreg) : IsWriteCommand i (encode i) start bytes :=
  ⟨decode_encode i, fun s hp => (hexec s).trans (writeCommand_idle _ _ _ hp),
    fun s st _ hp hb => ⟨_, (hexec s).trans (writeCommand_answered _ _ _ hp hb), finish_finished st s⟩,
    fun s _ _ hp hdev hi => write_run hexec (hdev ▸ inMap_write (hmap s.bank)) hp hi⟩

end Write

section Read
variable {i : Instr} {start : Byte} {n : Nat} {ok : List Byte → Bank → Bank → Prop} {lost : Bank → Bank → Prop}

/-- From issue to answer a read command reads its registers, changes none, and ends as its answer label does. -/
theorem read_run (hissue : ∀ s, s.phase = .idle → exec i s = .next (issue (encode i) (.read s.devAddr start n) s))
    (hok : ∀ (s : State) (d : List Byte), s.phase = .wait1 → s.bus = .answered 0 d → d.length = n →
      ∃ t b, exec i s = .next t ∧ ok d s.bank b ∧ Finished s t 0 b)
    (hfail : ∀ (s : State) (st : Status) (d : List Byte), s.phase = .wait1 → s.bus = .answered st d → st ≠ 0 →
      ∃ t b, exec i s = .next t ∧ lost s.bank b ∧ Finished s t st b)
    {s : State} {st : Status} {rest : List Input} (hr : (Request.read s.devAddr start n).inMap = true) (hp : s.phase = .idle)
    (hi : s.inputs = .cmd (encode i) :: .answer st :: rest) :
    ∃ t, steps 2 s = .next t ∧ t.phase = .idle ∧ t.status = st ∧ t.ill = 0 ∧ t.inputs = rest ∧
      (st = 0 → ok (s.mem.readBurst start.toNat n) s.bank t.bank) ∧ (st ≠ 0 → lost s.bank t.bank) ∧
      ∀ a, t.mem.read a = s.mem.read a := by
  obtain ⟨d, hans, hlen, hbytes⟩ := transport_read_answers st (waiting i (.read s.devAddr start n) s rest) hr
  have hlabel : ∃ t b, exec i (transport st (.read s.devAddr start n) (waiting i (.read s.devAddr start n) s rest)) = .next t ∧
      (st = 0 → ok d s.bank b) ∧ (st ≠ 0 → lost s.bank b) ∧
      Finished (transport st (.read s.devAddr start n) (waiting i (.read s.devAddr start n) s rest)) t st b := by
    by_cases hst : st = 0
    · subst hst
      obtain ⟨t, b, ht, hb, hfin⟩ := hok _ d (transport_phase _ _ _) hans hlen
      rw [transport_bank] at hb
      exact ⟨t, b, ht, fun _ => hb, fun hne => absurd rfl hne, hfin⟩
    · obtain ⟨t, b, ht, hb, hfin⟩ := hfail _ st d (transport_phase _ _ _) hans hst
      rw [transport_bank] at hb
      exact ⟨t, b, ht, fun h0 => absurd h0 hst, fun _ => hb, hfin⟩
  obtain ⟨t, b, ht, hgood, hbad, hidle, -, hstatus, hill, rfl, hmem, -, -, hin⟩ := hlabel
  refine ⟨t, steps_issue_answer hp hi (hissue _ hp) ht, hidle, hstatus, hill.trans (transport_ill _ _ _),
    hin.trans (transport_inputs _ _ _), fun hst => hbytes hst ▸ hgood hst, hbad, fun a => ?_⟩
  rw [hmem, transport_read_mem]
  rfl

/-- A command whose meaning is one read inside the register map is a read command, label by label and as a whole: `store` puts what
`ok` says into the bank, `lose` what `lost` says. -/
theorem isReadCommand {store : List Byte → State → Option State} {lose : State → State}
    (hexec : ∀ s, exec i s = readCommand (encode i) start n store lose s) (hmap : start.toNat + n ≤ Config.nreg)
    (hstore : ∀ d s, d.length = n → ∃ b k, store d s = some { s with bank := b, draws := k } ∧ ok d s.bank b)
    (hlose : ∀ s, ∃ b k, lose s = { s with bank := b, draws := k } ∧ lost s.bank b) :
    IsReadCommand i (encode i) start n ok lost := by
  have hissue (s : State) (hp : s.phase = .idle) : exec i s = .next (issue (encode i) (.read s.devAddr start n) s) :=
    (hexec s).trans (readCommand_idle _ _ _ _ _ hp)
  have hok (s : State) (d : List Byte) (hp : s.phase = .wait1) (hb : s.bus = .answered 0 d) (hd : d.length = n) :
      ∃ t b, exec i s = .next t ∧ ok d s.bank b ∧ Finished s t 0 b := by
    obtain ⟨b, k, hst, hb'⟩ := hstore d s hd
    exact ⟨_, b, (hexec s).trans (readCommand_stored _ _ _ _ _ hp hb hst), hb', finish_finished_of_bank 0 s b k⟩
  have hfail (s : State) (st : Status) (d : List Byte) (hp : s.phase = .wait1) (hb : s.bus = .answered st d) (hst : st ≠ 0) :
      ∃ t b, exec i s = .next t ∧ lost s.bank b ∧ Finished s t st b := by
    obtain ⟨b, k, hl, hb'⟩ := hlose s
    exact ⟨_, b, (hexec s).trans (readCommand_lost _ _ _ _ _ hp hb hst), hb', hl ▸ finish_finished_of_bank st s b k⟩
  exact ⟨decode_encode i, hissue, hok, hfail,
    fun s st rest hp hdev hi => read_run hissue hok hfail (hdev ▸ inMap_read hmap) hp hi⟩

end Read

end Sys2Proof.Commands

/-! The commands of one transaction: the write commands (spec/42_set_commands.md) and the read commands (spec/43_get_commands.md). -/

namespace Sys2Proof.SetGet

open Sys2Proof.Machine Sys2Proof.Safety Sys2Proof.Codec Sys2Proof.FieldCodec Sys2Proof.Commands

/-! The write commands (R181 to R185). -/

theorem setTime_isWrite : IsWriteCommand .setTime 0x10 0x00 (fun b => encTime b.time) :=
  isWriteCommand (i := .setTime) (fun _ => rfl) fun _ => by simp [encTime, Config.nreg]

theorem setCal_isWrite : IsWriteCommand .setCal 0x12 0x03 (fun b => encCal b.cal) :=
  isWriteCommand (i := .setCal) (fun _ => rfl) fun _ => by simp [encCal, Config.nreg]

theorem setAlarm1_isWrite : IsWriteCommand .setAlarm1 0x14 0x07 (fun b => encAlarm1 b.alarm) :=
  isWriteCommand (i := .setAlarm1) (fun _ => rfl) fun _ => by simp [encAlarm1, Config.nreg]

theorem setAlarm2_isWrite : IsWriteCommand .setAlarm2 0x16 0x0B (fun b => encAlarm2 b.alarm) :=
  isWriteCommand (i := .setAlarm2) (fun _ => rfl) fun _ => by simp [encAlarm2, Config.nreg]

theorem setCs_isWrite : IsWriteCommand .setCs 0x18 0x0E (fun b => [b.cs.ctl, b.cs.stat]) :=
  isWriteCommand (i := .setCs) (fun _ => rfl) fun _ => by simp [Config.nreg]

/-- In 24-hour mode the AM/PM flag has no influence on the hours (R152; the spec's D9). -/
theorem encHr_ampm {mode : Bit} (h : mode = 0) (hr : Byte) (f g : Bit) : encHr hr mode f = encHr hr mode g := by
  subst h
  rfl

theorem encTime_ampm (t : Time) (f : Bit) (h : t.mode = 0) : encTime { t with ampm := f } = encTime t := by
  simp only [encTime, encHr_ampm h t.hr f t.ampm]

/-- Settles O21: one write of the time block, whose hours leave the flag out in 24-hour mode. -/
theorem setTimeCommand : Obligations.SetTimeCommand :=
  ⟨setTime_isWrite, encTime_ampm, fun f =>
    (encTime_ampm { sec := 58, min := 59, hr := 23, mode := 0, ampm := 0 } f rfl).trans (by decide)⟩

/-- The BCD value of a month from 1 to 12 leaves bit 7, the century bit, 0. -/
theorem toNat_toBcd_month_lt {m : Byte} (h : m.toNat ≤ 12) : (toBcd m).toNat < 128 := by
  rw [toNat_toBcd]
  exact Nat.lt_of_le_of_lt (Nat.mod_le _ _) (by omega)

/-- Settles O22: one write of the calendar block, whose month byte is the BCD value of the month. -/
theorem setCalCommand : Obligations.SetCalCommand :=
  ⟨setCal_isWrite, fun _ _ hle => ⟨_, rfl, toNat_toBcd_month_lt hle⟩, rfl⟩

/-- The day has no influence when the date is selected (R160; the spec's D11). -/
theorem encAdd_day {dydt : Bit} (h : dydt = 0) (am : Bit) (day day' date : Byte) :
    encAdd am dydt day date = encAdd am dydt day' date := by
  subst h
  rfl

/-- The date has no influence when the day is selected (R160; the spec's D11). -/
theorem encAdd_date {dydt : Bit} (h : dydt = 1) (am : Bit) (day date date' : Byte) :
    encAdd am dydt day date = encAdd am dydt day date' := by
  subst h
  rfl

/-- Settles O23: one write of the Alarm 1 block, whose day and date byte takes the selected one. -/
theorem setAlarm1Command : Obligations.SetAlarm1Command := by
  refine ⟨setAlarm1_isWrite, fun a v h => ?_, fun a v h => ?_, fun a f h => ?_, fun v f => ?_⟩
  · simp only [encAlarm1, encAdd_date h a.am4 a.day v a.date]
  · simp only [encAlarm1, encAdd_day h a.am4 v a.day a.date]
  · simp only [encAlarm1, encAhr, encHr_ampm h a.hr f a.ampm]
  · rw [encAlarm1, encAhr, encHr_ampm rfl 6 f 0, encAdd_day rfl 1 v 0 1]
    dsimp only
    decide

/-- Settles O24: one write of the Alarm 2 block, which has neither seconds nor am1. -/
theorem setAlarm2Command : Obligations.SetAlarm2Command := by
  refine ⟨setAlarm2_isWrite, fun _ _ _ => rfl, fun _ => rfl, fun x y f g => ?_⟩
  rw [encAlarm2, encAhr, encHr_ampm rfl 0 g 0, encAdd_day rfl 1 y 0 0]
  dsimp only
  decide

/-- Settles O25: one write of the two bytes. -/
theorem setCsCommand : Obligations.SetCsCommand := setCs_isWrite

/-! The read commands (R201 to R206). -/

theorem getTime_isRead : IsReadCommand .getTime 0x11 0x00 3
    (fun d old new => ∃ v, decTime d = some v ∧ new = { old with time := v })
    (fun old new => ∃ v, new = { old with time := v }) := by
  refine isReadCommand (i := .getTime) (fun _ => rfl) (by decide) (fun d s hd => ?_)
    fun s => ⟨{ s.bank with time := freeTime s.draws }, s.draws + 5, rfl, _, rfl⟩
  obtain ⟨b0, b1, b2, rfl⟩ := List.length_eq_three.1 hd
  exact ⟨_, s.draws, rfl, _, decTime_bytes b0 b1 b2, rfl⟩

theorem getCal_isRead : IsReadCommand .getCal 0x13 0x03 4
    (fun d old new => ∃ v, decCal d = some v ∧ new = { old with cal := v })
    (fun old new => ∃ v, new = { old with cal := v }) := by
  refine isReadCommand (i := .getCal) (fun _ => rfl) (by decide) (fun d s hd => ?_)
    fun s => ⟨{ s.bank with cal := freeCal s.draws }, s.draws + 4, rfl, _, rfl⟩
  match d, hd with
  | [b0, b1, b2, b3], _ => exact ⟨_, s.draws, rfl, _, rfl, rfl⟩

theorem getAlarm1_isRead : IsReadCommand .getAlarm1 0x15 0x07 4
    (fun d old new => ∃ u v, decAlarm1 u d = some v ∧ new = { old with alarm := v })
    (fun old new => ∃ v, new = { old with alarm := v }) := by
  refine isReadCommand (i := .getAlarm1) (fun _ => rfl) (by decide) (fun d s hd => ?_)
    fun s => ⟨{ s.bank with alarm := freeAlarm s.draws }, s.draws + 12, rfl, _, rfl⟩
  match d, hd with
  | [b0, b1, b2, b3], _ => exact ⟨_, s.draws + 1, rfl, _, _, decAlarm1_bytes (Config.unspec 8 s.draws) b0 b1 b2 b3, rfl⟩

theorem getAlarm2_isRead : IsReadCommand .getAlarm2 0x17 0x0B 3
    (fun d old new => ∃ u x f v, decAlarm2 u x f d = some v ∧ new = { old with alarm := v })
    (fun old new => ∃ v, new = { old with alarm := v }) := by
  refine isReadCommand (i := .getAlarm2) (fun _ => rfl) (by decide) (fun d s hd => ?_)
    fun s => ⟨{ s.bank with alarm := freeAlarm s.draws }, s.draws + 12, rfl, _, rfl⟩
  obtain ⟨b1, b2, b3, rfl⟩ := List.length_eq_three.1 hd
  exact ⟨_, s.draws + 3, rfl, Config.unspec 8 s.draws, Config.unspec 8 (s.draws + 1), Config.unspec 1 (s.draws + 2), _, rfl, rfl⟩

theorem getCs_isRead : IsReadCommand .getCs 0x19 0x0E 2
    (fun d old new => ∃ x y, d = [x, y] ∧ new = { old with cs := { old.cs with ctl := x, stat := y } })
    (fun old new => ∃ x y, new = { old with cs := { old.cs with ctl := x, stat := y } }) := by
  refine isReadCommand (i := .getCs) (fun _ => rfl) (by decide) (fun d s hd => ?_)
    fun s => ⟨(loseCs s).bank, s.draws + 2, rfl, _, _, rfl⟩
  obtain ⟨x, y, rfl⟩ := List.length_eq_two.1 hd
  exact ⟨_, s.draws, rfl, x, y, rfl, rfl⟩

theorem getTemp_isRead : IsReadCommand .getTemp 0x1B 0x11 2
    (fun d old new => ∃ x y v, d = [x, y] ∧ v.toNat = x.toNat * 256 + y.toNat ∧ new = { old with temp := v })
    (fun old new => ∃ v, new = { old with temp := v }) := by
  refine isReadCommand (i := .getTemp) (fun _ => rfl) (by decide) (fun d s hd => ?_)
    fun s => ⟨{ s.bank with temp := Config.unspec 16 s.draws }, s.draws + 1, rfl, _, rfl⟩
  obtain ⟨x, y, rfl⟩ := List.length_eq_two.1 hd
  exact ⟨_, s.draws, rfl, x, y, x ++ y, rfl, toNat_append_bytes x y, rfl⟩

/-- Only three bytes decode to a time. -/
theorem eq_three_of_decTime {d : List Byte} {v : Time} (h : decTime d = some v) : ∃ b0 b1 b2, d = [b0, b1, b2] := by
  unfold decTime at h
  split at h
  case h_1 b0 b1 b2 => exact ⟨b0, b1, b2, rfl⟩
  case h_2 => cases h

/-- A time decoded in 24-hour mode has AM/PM 0 (R153; the spec's D9). -/
theorem ampm_of_decTime {d : List Byte} {v : Time} (h : decTime d = some v) (hmode : v.mode = 0) : v.ampm = 0 := by
  obtain ⟨b0, b1, b2, rfl⟩ := eq_three_of_decTime h
  rw [decTime_bytes] at h
  cases h
  exact ((decHr_fields b2).2.2 hmode).1

/-- Settles O27: one read of the time block, decoded from the low 7 bits of its bytes. -/
theorem getTimeCommand : Obligations.GetTimeCommand :=
  ⟨getTime_isRead, fun b0 b1 b2 => decTime_eq_of_low7 (low7_and_low7 b0).symm (low7_and_low7 b1).symm (low7_and_low7 b2).symm,
    fun _ _ => ampm_of_decTime, rfl, rfl⟩

/-- Setting the top bit of a byte that has it clear adds 128. -/
theorem toNat_or_top {b : Byte} (h : b.toNat < 128) : (b ||| 0x80).toNat = 128 + b.toNat := by
  have hsum := Nat.two_pow_add_eq_or_of_lt (i := 7) h 1
  rw [BitVec.toNat_or, Nat.or_comm]
  exact hsum.symm

/-- Settles O28: one read of the calendar block; the century bit is 8 tens of the whole byte's BCD value. -/
theorem getCalCommand : Obligations.GetCalCommand := by
  refine ⟨getCal_isRead, fun m _ hle => ?_, rfl⟩
  have hbcd := toNat_toBcd m
  rw [toNat_fromBcd, toNat_or_top (toNat_toBcd_month_lt hle)]
  omega

/-- Only four bytes decode to an Alarm 1. -/
theorem eq_four_of_decAlarm1 {u : Byte} {d : List Byte} {v : Alarm} (h : decAlarm1 u d = some v) :
    ∃ b0 b1 b2 b3, d = [b0, b1, b2, b3] := by
  unfold decAlarm1 at h
  split at h
  case h_1 b0 b1 b2 b3 => exact ⟨b0, b1, b2, b3, rfl⟩
  case h_2 => cases h

/-- Only three bytes decode to an Alarm 2. -/
theorem eq_three_of_decAlarm2 {u x : Byte} {f : Bit} {d : List Byte} {v : Alarm} (h : decAlarm2 u x f d = some v) :
    ∃ b1 b2 b3, d = [b1, b2, b3] := by
  unfold decAlarm2 at h
  split at h
  case h_1 b1 b2 b3 => exact ⟨b1, b2, b3, rfl⟩
  case h_2 => cases h

/-- The unselected one of day and date of a decoded Alarm 1 is the free value (R161; the spec's D11). -/
theorem unselected_of_decAlarm1 {u : Byte} {d : List Byte} {v : Alarm} (h : decAlarm1 u d = some v) :
    (v.dydt = 1 → v.date = u) ∧ (v.dydt = 0 → v.day = u) := by
  obtain ⟨b0, b1, b2, b3, rfl⟩ := eq_four_of_decAlarm1 h
  obtain ⟨-, -, hday, hdate⟩ := decAdd_fields u b3
  rw [decAlarm1_bytes] at h
  cases h
  exact ⟨fun h1 => (hday h1).2, fun h0 => (hdate h0).2⟩

/-- Settles O29: one read of the Alarm 1 block. -/
theorem getAlarm1Command : Obligations.GetAlarm1Command :=
  ⟨getAlarm1_isRead, fun _ _ _ => unselected_of_decAlarm1, fun _ => rfl⟩

/-- Settles O30: one read of the Alarm 2 block, which decodes as Alarm 1 with free seconds and am1. -/
theorem getAlarm2Command : Obligations.GetAlarm2Command := by
  refine ⟨getAlarm2_isRead, fun u x f d v h => ?_, fun _ _ _ => rfl⟩
  obtain ⟨b1, b2, b3, rfl⟩ := eq_three_of_decAlarm2 h
  rw [decAlarm2_bytes u x f 0] at h
  obtain ⟨a, ha, rfl⟩ := Option.map_eq_some_iff.1 h
  obtain ⟨hdate, hday⟩ := unselected_of_decAlarm1 ha
  exact ⟨rfl, rfl, hdate, hday⟩

/-- Settles O31: one read of the two bytes; the masks are no output. -/
theorem getCsCommand : Obligations.GetCsCommand := getCs_isRead

/-- Settles O32: one read of the two bytes, side by side. -/
theorem getTempCommand : Obligations.GetTempCommand := getTemp_isRead

/-! Written and read back (R188). -/

/-- A set command and a get command of the same block, each answered with 0: the get command ends with what it makes of the bytes
that were written. -/
theorem write_then_read {i j : Instr} {c c' start : Byte} {bytes : Bank → List Byte} {len : Nat}
    {ok : List Byte → Bank → Bank → Prop} {lost : Bank → Bank → Prop} (hw : IsWriteCommand i c start bytes)
    (hr : IsReadCommand j c' start len ok lost) {s : State} {rest : List Input} (hlen : (bytes s.bank).length = len)
    (hp : s.phase = .idle) (hdev : s.devAddr = Config.devAddr)
    (hi : s.inputs = .cmd c :: .answer 0 :: .cmd c' :: .answer 0 :: rest) :
    ∃ t, steps 4 s = .next t ∧ t.status = 0 ∧ ok (bytes s.bank) s.bank t.bank := by
  obtain ⟨-, -, -, hwrite⟩ := hw
  obtain ⟨-, -, -, -, hread⟩ := hr
  obtain ⟨u, hu, hidle, -, -, hbank, hin, hstored, -⟩ := hwrite s 0 _ hp hdev hi
  obtain ⟨t, ht, -, hstatus, -, -, hok, -, -⟩ := hread u 0 rest hidle ((steps_devAddr hu).trans hdev) hin
  refine ⟨t, (steps_add hu 2).trans ht, hstatus, ?_⟩
  rw [← hstored rfl, hlen, ← hbank]
  exact hok rfl

/-- Settles O57: each get command reads the bytes that the set command wrote, and they decode to the fields that they encode. -/
theorem writeThenReadAgrees : Obligations.WriteThenReadAgrees := by
  refine fun s rest hp hdev => ⟨fun hi hfits => ?_, fun hi hfits => ?_, fun hi => ?_, fun hi hfits hsec => ?_, fun hi hfits => ?_⟩
  · obtain ⟨t, ht, hst, v, hv, hb⟩ := write_then_read setTime_isWrite getTime_isRead rfl hp hdev hi
    rw [timeRoundTrip _ hfits] at hv
    cases hv
    exact ⟨t, ht, hst, hb⟩
  · obtain ⟨t, ht, hst, v, hv, hb⟩ := write_then_read setCal_isWrite getCal_isRead rfl hp hdev hi
    rw [calendarRoundTrip _ hfits] at hv
    cases hv
    exact ⟨t, ht, hst, hb⟩
  · obtain ⟨t, ht, hst, x, y, hd, hb⟩ := write_then_read setCs_isWrite getCs_isRead rfl hp hdev hi
    cases hd
    exact ⟨t, ht, hst, hb⟩
  · obtain ⟨t, ht, hst, u, v, hv, hb⟩ := write_then_read setAlarm1_isWrite getAlarm1_isRead rfl hp hdev hi
    rw [(alarmRoundTrip u 0 0 _ hfits).1 hsec] at hv
    cases hv
    exact ⟨t, u, ht, hst, hb⟩
  · obtain ⟨t, ht, hst, u, x, f, v, hv, hb⟩ := write_then_read setAlarm2_isWrite getAlarm2_isRead rfl hp hdev hi
    rw [(alarmRoundTrip u x f _ hfits).2] at hv
    cases hv
    exact ⟨t, u, x, f, ht, hst, hb⟩

end Sys2Proof.SetGet

/-! The epoch arithmetic (spec/44_epoch.md R222 to R226). -/

namespace Sys2Proof.EpochArith

open Sys2Proof.Machine Sys2Proof.Safety Sys2Proof.FieldCodec

/-- For a month from 1 to 12 the epoch is the narrowed sum (R224). -/
theorem epochOf_of_month (u : BitVec 64) (t : Time) {c : Calendar} (h : monthInRange c = true) :
    epochOf u t c = BitVec.ofInt 64 (epochSeconds t c) := if_pos h

/-- The day of the week does not enter the sum. -/
theorem epochSeconds_day (t : Time) (c : Calendar) (day : Byte) : epochSeconds t { c with day := day } = epochSeconds t c := rfl

/-- A date of the year 2000, on day 0 of the week. -/
def dateIn2000 (date month : Byte) : Calendar := { day := 0, date := date, month := month, year := 0 }

/-- A known sum for a date of the year 2000 is the epoch whatever the day of the week. -/
theorem epochOf_known {t : Time} {date month : Byte} {n : Int} (u : BitVec 64) (day : Byte)
    (hm : monthInRange (dateIn2000 date month) = true) (hn : epochSeconds t (dateIn2000 date month) = n) :
    epochOf u t { dateIn2000 date month with day := day } = BitVec.ofInt 64 n := by
  rw [← hn, ← epochSeconds_day t _ day]
  exact epochOf_of_month u t hm

/-- Settles O44: the seven sums evaluate, and the day of the week is in none of them. -/
theorem epochKnownValues : Obligations.EpochKnownValues := fun u day =>
  ⟨epochOf_known (n := 946684800) u day rfl (by decide), epochOf_known (n := 951825600) u day rfl (by decide),
    epochOf_known (n := 949406400) u day rfl (by decide), by decide,
    epochOf_known (n := 946684800) u day rfl (by decide), epochOf_known (n := 946728000) u day rfl (by decide),
    epochOf_known (n := 946731600) u day rfl (by decide), epochOf_known (n := 946688400) u day rfl (by decide)⟩

/-! The day count (R223, R225). -/

/-- The day count is linear in the date. -/
theorem daysOf_sub (d d' m y : Byte) : daysOf d' m y - daysOf d m y = (d'.toNat : Int) - d.toNat := by
  simp only [daysOf]
  omega

/-- The days before a month in a 365-day year (R225), and how the formula of R223, whose year begins in March, counts them. -/
theorem daysBefore_spec {m : Nat} (h1 : 1 ≤ m) (h12 : m ≤ 12) : ∃ before, daysBefore[m - 1]? = some before ∧
    0 ≤ before ∧ before ≤ 334 ∧
    (153 * (((m : Int) + 9) % 12) + 2) / 5 = before + (if m ≤ 2 then 306 else -59) := by
  interval_cases m <;> exact ⟨_, rfl, by decide, by decide, by decide⟩

/-- The day count for the years 2000 to 2165 and the months 1 to 12: 2100 is no leap year. -/
theorem daysOf_closed {date month year : Byte} (h1 : 1 ≤ month.toNat) (h12 : month.toNat ≤ 12) (hy : year.toNat ≤ 165) :
    ∃ before, daysBefore[month.toNat - 1]? = some before ∧ 0 ≤ before ∧ before ≤ 334 ∧
      daysOf date month year =
        10957 + 365 * (year.toNat : Int) + ((year.toNat : Int) + 3) / 4 - (if 100 < year.toNat then 1 else 0) + before
          + (if year.toNat % 4 = 0 ∧ year.toNat ≠ 100 ∧ 2 < month.toNat then 1 else 0) + (date.toNat : Int) - 1 := by
  obtain ⟨before, hb, hlo, hhi, hmonth⟩ := daysBefore_spec h1 h12
  refine ⟨before, hb, hlo, hhi, ?_⟩
  unfold daysOf
  simp only [hmonth, Config.yearBase, Config.epochDayOffset]
  by_cases hm : month.toNat ≤ 2
  · simp only [hm, if_true, Nat.not_lt.2 hm, and_false, if_false]
    split <;> omega
  · simp only [hm, if_false, Nat.lt_of_not_le hm, and_true]
    split <;> split <;> omega

/-- Settles O46: the day count of the years 2000 to 2165 over each of the two ranges. -/
theorem daysOfForms : Obligations.DaysOfForms := by
  refine ⟨daysOf_sub, fun date month year h1 h12 hy => ?_, fun date month year h1 h12 _ hy => ?_, by decide, by decide⟩
  · obtain ⟨before, hb, -, -, hdays⟩ := daysOf_closed (date := date) (year := year) h1 h12 (by omega)
    refine ⟨before, hb, ?_⟩
    have hcentury : ¬ 100 < year.toNat ∧ year.toNat ≠ 100 := by omega
    simpa [hcentury] using hdays
  · obtain ⟨before, hb, -, -, hdays⟩ := daysOf_closed (date := date) h1 h12 hy
    exact ⟨before, hb, hdays⟩

/-! The range of the epoch (R224). -/

/-- The day count over every date and year that a byte can decode to. -/
theorem daysOf_range {date month year : Byte} (hd : date.toNat ≤ 165) (hy : year.toNat ≤ 165) (h1 : 1 ≤ month.toNat)
    (h12 : month.toNat ≤ 12) : 10956 ≤ daysOf date month year ∧ daysOf date month year ≤ 71721 := by
  obtain ⟨before, -, hlo, hhi, hdays⟩ := daysOf_closed (date := date) h1 h12 hy
  rw [hdays]
  split <;> split <;> omega

/-- The hour of the day is at most the hour field, or 23 (R222). -/
theorem hour24_le {hr : Byte} (mode ampm : Bit) (h : hr.toNat ≤ 45) : hour24 hr mode ampm ≤ 45 := by
  unfold hour24
  split
  · split <;> omega
  · exact h

/-- The sum over every field value that a block can decode to. -/
theorem epochSeconds_range {t : Time} {c : Calendar} (hs : t.sec.toNat ≤ 85) (hm : t.min.toNat ≤ 85) (hh : t.hr.toNat ≤ 45)
    (hd : c.date.toNat ≤ 165) (hy : c.year.toNat ≤ 165) (h1 : 1 ≤ c.month.toNat) (h12 : c.month.toNat ≤ 12) :
    0 < epochSeconds t c ∧ epochSeconds t c ≤ 6196861585 := by
  have hhour := hour24_le t.mode t.ampm hh
  have hdays := daysOf_range hd hy h1 h12
  unfold epochSeconds
  omega

/-- Settles O45: the sum is in the range, so that 64 bits hold it. -/
theorem epochRange : Obligations.EpochRange := by
  intro u t c hs hm hh hd hy h1 h12
  obtain ⟨hdlo, hdhi⟩ := daysOf_range hd hy h1 h12
  obtain ⟨hpos, hle⟩ := epochSeconds_range hs hm hh hd hy h1 h12
  have hexact : (epochOf u t c).toInt = epochSeconds t c := by
    rw [epochOf_of_month u t (decide_eq_true ⟨h1, h12⟩)]
    exact BitVec.toInt_ofInt_eq_self (by decide) (by omega) (by omega)
  rw [hexact]
  exact ⟨hdlo, hdhi, rfl, hpos, hle⟩

/-- Every field of a decoded time is inside the epoch's range (R144). -/
theorem decTime_ranges {b0 b1 b2 : Byte} {t : Time} (h : decTime [b0, b1, b2] = some t) :
    t.sec.toNat ≤ 85 ∧ t.min.toNat ≤ 85 ∧ t.hr.toNat ≤ 45 := by
  obtain ⟨t', ht', hsec, hmin, -, h12, h24⟩ := decodedTimeFields b0 b1 b2
  obtain rfl : t' = t := Option.some.inj (ht'.symm.trans h)
  refine ⟨by omega, by omega, ?_⟩
  rcases bit_eq_zero_or_one t'.mode with hmode | hmode
  · have := (h24 hmode).2
    omega
  · have := (h12 hmode).2
    omega

/-- The epoch of two decoded blocks is the exact count of seconds when the month is 1 to 12. -/
theorem epochOf_decoded (u : BitVec 64) {b0 b1 b2 : Byte} {e : List Byte} {t : Time} {c : Calendar}
    (ht : decTime [b0, b1, b2] = some t) (hc : decCal e = some c) (h1 : 1 ≤ c.month.toNat) (h12 : c.month.toNat ≤ 12) :
    (epochOf u t c).toInt = epochSeconds t c := by
  obtain ⟨hs, hm, hh⟩ := decTime_ranges ht
  have hfields : c.date.toNat ≤ 165 ∧ c.year.toNat ≤ 165 := by
    unfold decCal at hc
    split at hc <;> cases hc
    exact ⟨(Codec.fromBcdFormula _).2, (Codec.fromBcdFormula _).2⟩
  obtain ⟨-, -, hexact, -⟩ := epochRange u t c hs hm hh hfields.1 hfields.2 h1 h12
  exact hexact

end Sys2Proof.EpochArith

/-! The commands of two transactions, `RMW_CS` (spec/42_set_commands.md R186) and `GET_EPOCH` (spec/44_epoch.md R221), and what the
environment does between their requests (R77, R280, R281). -/

namespace Sys2Proof.TwoRequests

open Sys2Proof.Machine Sys2Proof.Safety Sys2Proof.Port Sys2Proof.Invariant Sys2Proof.FieldCodec Sys2Proof.Commands
  Sys2Proof.EpochArith

/-! Runs of two transactions. -/

/-- The environment's changes take one step each and leave their registers behind. -/
theorem steps_changes (cs : List (Fin Config.nreg × Byte)) {s : State} {rest : List Input} (hi : s.inputs = changes cs ++ rest)
    (k : Nat) : steps (cs.length + k) s = steps k { s with inputs := rest, mem := memAfter cs s.mem } := by
  induction cs generalizing s with
  | nil =>
    have hi : s.inputs = rest := hi
    subst hi
    rw [List.length_nil, Nat.zero_add]
    rfl
  | cons c cs ih =>
    have hchange : step s = .next { s with inputs := changes cs ++ rest, mem := s.mem.write c.1 c.2 } := step_regChange hi
    rw [List.length_cons, Nat.add_right_comm, steps_next hchange, ih rfl]
    rfl

/-- A command of two requests, both answered with 0, and changes of the environment between the answers: it is issued, the first
answer makes it emit the second request, the changes happen, and the second answer ends it. -/
theorem steps_two_requests {i : Instr} {s u v t : State} {r r' : Request} {cs : List (Fin Config.nreg × Byte)} {rest : List Input}
    (hp : s.phase = .idle) (hi : s.inputs = .cmd (encode i) :: .answer 0 :: (changes cs ++ .answer 0 :: rest))
    (hissue : exec i { s with inputs := .answer 0 :: (changes cs ++ .answer 0 :: rest) } = .next u)
    (hub : u.bus = .pending r) (huc : u.cur = encode i) (hui : u.inputs = .answer 0 :: (changes cs ++ .answer 0 :: rest))
    (hfirst : exec i (transport 0 r { u with inputs := changes cs ++ .answer 0 :: rest }) = .next v)
    (hvb : v.bus = .pending r') (hvc : v.cur = encode i) (hvi : v.inputs = changes cs ++ .answer 0 :: rest)
    (hsecond : exec i (transport 0 r' { v with inputs := rest, mem := memAfter cs v.mem }) = .next t) :
    steps (3 + cs.length) s = .next t := by
  have hcount : 3 + cs.length = (cs.length + 1) + 1 + 1 := by omega
  rw [hcount, steps_issue hp hi hissue, steps_answer hub huc hui hfirst, steps_changes cs hvi]
  exact steps_answer (s := { v with inputs := .answer 0 :: rest, mem := memAfter cs v.mem }) hvb hvc rfl hsecond 0

/-! `RMW_CS`, label by label. -/

theorem rmwCs_issue {s : State} (h : s.phase = .idle) :
    exec .rmwCs s = .next (issue 0x1A (.read s.devAddr 0x0E 2) (sampleCs s)) := by
  simp [exec, execRmwCs, h]

theorem rmwCs_merge {s : State} {b0 b1 : Byte} (h : s.phase = .wait1) (hb : s.bus = .answered 0 [b0, b1]) :
    exec .rmwCs s = .next (emitSecond (.write s.devAddr 0x0E (mergedCs s.lat b0 b1)) s) := by
  simp [exec, execRmwCs, h, onAnswer_answered hb, decCs]

theorem rmwCs_readFailed {s : State} {st : Status} {d : List Byte} (h : s.phase = .wait1) (hb : s.bus = .answered st d)
    (hst : st ≠ 0) : exec .rmwCs s = .next (finish st s) := by
  simp [exec, execRmwCs, h, onAnswer_answered hb, succeeded_of_ne hst]

theorem rmwCs_end {s : State} {st : Status} {d : List Byte} (h : s.phase = .wait2) (hb : s.bus = .answered st d) :
    exec .rmwCs s = .next (finish st s) := by
  simp [exec, execRmwCs, h, onAnswer_answered hb]

/-- The first answer 0 of `RMW_CS`: the write of the two registers, merged under the operands sampled at issue. -/
theorem rmwCs_first_answer (s : State) (tail : List Input) (hr : (Request.read s.devAddr 0x0E 2).inMap = true) :
    ∃ v, exec .rmwCs (transport 0 (.read s.devAddr 0x0E 2)
        (issue 0x1A (.read s.devAddr 0x0E 2) (sampleCs { s with inputs := tail }))) = .next v ∧
      v.bus = .pending (.write s.devAddr 0x0E
        [merge (s.mem.read 0x0E) s.bank.cs.ctl s.bank.cs.cmask, merge (s.mem.read 0x0F) s.bank.cs.stat s.bank.cs.smask]) ∧
      v.phase = .wait2 ∧ v.cur = 0x1A ∧ v.inputs = tail ∧ v.mem = s.mem ∧ v.bank = s.bank := by
  rw [transport_read_ok _ _ _ _ hr]
  exact ⟨_, rmwCs_merge rfl rfl, rfl, rfl, rfl, rfl, rfl, rfl⟩

/-- The whole of `RMW_CS` with both answers 0: what it writes is merged from the bytes before the environment's changes, and lands on
the registers after them. -/
theorem rmwCs_run {s : State} {cs : List (Fin Config.nreg × Byte)} {rest : List Input} (hp : s.phase = .idle)
    (hdev : s.devAddr = Config.devAddr) (hi : s.inputs = .cmd 0x1A :: .answer 0 :: (changes cs ++ .answer 0 :: rest)) :
    ∃ t, steps (3 + cs.length) s = .next t ∧ t.phase = .idle ∧ t.status = 0 ∧ t.bank = s.bank ∧ t.inputs = rest ∧
      t.mem = (memAfter cs s.mem).writeBurst 0x0E
        [merge (s.mem.read 0x0E) s.bank.cs.ctl s.bank.cs.cmask, merge (s.mem.read 0x0F) s.bank.cs.stat s.bank.cs.smask] := by
  have hread : (Request.read s.devAddr 0x0E 2).inMap = true := hdev ▸ inMap_read (by decide)
  have hwrite (b0 b1 : Byte) : (Request.write s.devAddr 0x0E [b0, b1]).inMap = true := hdev ▸ inMap_write (by simp [Config.nreg])
  obtain ⟨v, hfirst, hvb, hvp, hvc, hvi, hvm, hvbank⟩ := rmwCs_first_answer s (changes cs ++ .answer 0 :: rest) hread
  refine ⟨_, steps_two_requests (i := .rmwCs) hp hi (rmwCs_issue hp) rfl rfl rfl hfirst hvb hvc hvi
      (rmwCs_end ((transport_phase _ _ _).trans hvp) (transport_write_answers 0 _ (hwrite _ _))),
    rfl, rfl, (transport_bank _ _ _).trans hvbank, transport_inputs _ _ _, ?_⟩
  rw [finish_mem, transport_write_ok _ _ _ _ (hwrite _ _), hvm]
  rfl

/-- Settles O58: the merged bytes are written over whatever the changes left in the two registers, and nowhere else. -/
theorem rmwOverwritesConcurrentChange : Obligations.RmwOverwritesConcurrentChange := by
  intro s cs rest hp hdev hi
  obtain ⟨t, ht, hidle, hst, -, hin, hmem⟩ := rmwCs_run hp hdev hi
  refine ⟨t, ht, hidle, hst, hin, ?_, ?_, fun a ha => ?_⟩ <;> rw [hmem]
  · exact Memory.read_writeBurst_inside 0x0E _ _ 0 (by simp)
  · exact Memory.read_writeBurst_inside 0x0E _ _ 1 (by simp)
  · exact Memory.read_writeBurst_outside _ _ _ _ ha

/-- Settles O26: the four labels, and the whole command as a run without changes between its answers. -/
theorem rmwCsCommand : Obligations.RmwCsCommand := by
  refine ⟨rfl, fun s hp => rmwCs_issue hp, fun s b0 b1 hp hb => rmwCs_merge hp hb,
    fun s st d hp hb hst => ⟨_, rmwCs_readFailed hp hb hst, finish_finished st s⟩,
    fun s st d hp hb => ⟨_, rmwCs_end hp hb, finish_finished st s⟩, fun s rest hp hdev hi => ?_⟩
  obtain ⟨t, ht, hidle, hst, hin, hctl, hstat, hout⟩ := rmwOverwritesConcurrentChange s [] rest hp hdev hi
  obtain ⟨t', ht', -, -, hbank, -⟩ := rmwCs_run (cs := []) hp hdev hi
  obtain rfl : t = t' := Host.Outcome.next.inj (ht.symm.trans ht')
  exact ⟨t, ht, hidle, hst, hbank, hin, hctl, hstat, hout⟩

/-! `GET_EPOCH`, label by label. -/

theorem getEpoch_issue {s : State} (h : s.phase = .idle) :
    exec .getEpoch s = .next (issue 0x1D (.read s.devAddr 0x00 3) s) := by
  simp [exec, execGetEpoch, h]

theorem getEpoch_keep {s : State} {b0 b1 b2 : Byte} (h : s.phase = .wait1) (hb : s.bus = .answered 0 [b0, b1, b2]) :
    exec .getEpoch s =
      .next (emitSecond (.read s.devAddr 0x03 4) { s with rbuf := { b0 := b0, b1 := b1, b2 := b2 } }) := by
  simp [exec, execGetEpoch, h, onAnswer_answered hb, keepTimeBlock]

theorem getEpoch_failed {s : State} {st : Status} {d : List Byte} (h : s.phase = .wait1 ∨ s.phase = .wait2)
    (hb : s.bus = .answered st d) (hst : st ≠ 0) : exec .getEpoch s = .next (finish st (loseEpoch s)) := by
  rcases h with h | h <;> simp [exec, execGetEpoch, h, onAnswer_answered hb, succeeded_of_ne hst]

/-- The second answer 0 of `GET_EPOCH`: `EPOCH` is the count of seconds of the two blocks when the month is 1 to 12. -/
theorem getEpoch_end {s : State} {e : List Byte} (h : s.phase = .wait2) (hb : s.bus = .answered 0 e) (he : e.length = 4) :
    ∃ t v tm c, exec .getEpoch s = .next t ∧ Finished s t 0 { s.bank with epoch := v } ∧
      decTime [s.rbuf.b0, s.rbuf.b1, s.rbuf.b2] = some tm ∧ decCal e = some c ∧
      (1 ≤ c.month.toNat → c.month.toNat ≤ 12 → v.toInt = epochSeconds tm c) := by
  have hcal : ∃ c, decCal e = some c := match e, he with
    | [b0, b1, b2, b3], _ => ⟨_, rfl⟩
  obtain ⟨c, hc⟩ := hcal
  obtain ⟨tm, htime⟩ : ∃ tm, decTime [s.rbuf.b0, s.rbuf.b1, s.rbuf.b2] = some tm := ⟨_, decTime_bytes _ _ _⟩
  have hderive : deriveEpoch e s = some (advanceDraws 1 (storeEpoch (epochOf (Config.unspec 64 s.draws) tm c) s)) := by
    simp only [deriveEpoch, htime, hc]
  have hend : exec .getEpoch s = .next (finish 0 (advanceDraws 1 (storeEpoch (epochOf (Config.unspec 64 s.draws) tm c) s))) := by
    simp [exec, execGetEpoch, h, onAnswer_answered hb, hderive]
  exact ⟨_, _, tm, c, hend, finish_finished 0 _, htime, hc, epochOf_decoded _ htime hc⟩

/-- The first answer 0 of `GET_EPOCH`: the time block is kept and the read of the calendar block emitted. -/
theorem getEpoch_first_answer (s : State) (tail : List Input) (hr : (Request.read s.devAddr 0x00 3).inMap = true) :
    ∃ v, exec .getEpoch (transport 0 (.read s.devAddr 0x00 3)
        (issue 0x1D (.read s.devAddr 0x00 3) { s with inputs := tail })) = .next v ∧
      v.bus = .pending (.read s.devAddr 0x03 4) ∧ v.phase = .wait2 ∧ v.cur = 0x1D ∧ v.inputs = tail ∧ v.mem = s.mem ∧
      v.bank = s.bank ∧ [v.rbuf.b0, v.rbuf.b1, v.rbuf.b2] = s.mem.readBurst 0x00 3 := by
  rw [transport_read_ok _ _ _ _ hr]
  exact ⟨_, getEpoch_keep rfl rfl, rfl, rfl, rfl, rfl, rfl, rfl, rfl⟩

/-- The whole of `GET_EPOCH` with both answers 0: the time block from before the environment's changes, the calendar block from after
them. -/
theorem getEpoch_run {s : State} {cs : List (Fin Config.nreg × Byte)} {rest : List Input} (hp : s.phase = .idle)
    (hdev : s.devAddr = Config.devAddr) (hi : s.inputs = .cmd 0x1D :: .answer 0 :: (changes cs ++ .answer 0 :: rest)) :
    ∃ t v tm c, steps (3 + cs.length) s = .next t ∧ t.phase = .idle ∧ t.status = 0 ∧ t.inputs = rest ∧
      t.bank = { s.bank with epoch := v } ∧ t.mem = memAfter cs s.mem ∧
      decTime (s.mem.readBurst 0x00 3) = some tm ∧ decCal ((memAfter cs s.mem).readBurst 0x03 4) = some c ∧
      (1 ≤ c.month.toNat → c.month.toNat ≤ 12 → v.toInt = epochSeconds tm c) := by
  have htime : (Request.read s.devAddr 0x00 3).inMap = true := hdev ▸ inMap_read (by decide)
  have hcal : (Request.read s.devAddr 0x03 4).inMap = true := hdev ▸ inMap_read (by decide)
  obtain ⟨u, hfirst, hub, hup, huc, hui, hum, hubank, hubuf⟩ := getEpoch_first_answer s (changes cs ++ .answer 0 :: rest) htime
  have hans := transport_read_ok s.devAddr 0x03 4 { u with inputs := rest, mem := memAfter cs u.mem } hcal
  obtain ⟨t, v, tm, c, hsecond, ⟨hidle, -, hst, -, hbank, hmem, -, -, hin⟩, htm, hc, hv⟩ :=
    getEpoch_end (s := transport 0 (.read s.devAddr 0x03 4) { u with inputs := rest, mem := memAfter cs u.mem })
      (e := (memAfter cs u.mem).readBurst 0x03 4) ((transport_phase _ _ _).trans hup) (by rw [hans]; rfl) rfl
  rw [hans] at hbank hmem hin htm
  refine ⟨t, v, tm, c, steps_two_requests (i := .getEpoch) hp hi (getEpoch_issue hp) rfl rfl rfl hfirst hub huc hui hsecond,
    hidle, hst, hin, ?_, ?_, ?_, ?_, hv⟩
  · rw [hbank, ← hubank]
  · rw [hmem, ← hum]
  · rw [← hubuf, ← htm]
  · rw [← hc, hum]

/-- Settles O59: the time block is kept before the changes, and the calendar block is read after them. -/
theorem tornEpoch : Obligations.TornEpoch := by
  intro s cs rest hp hdev hi
  obtain ⟨t, v, tm, c, ht, hidle, hst, hin, hbank, -, htm, hc, hv⟩ := getEpoch_run hp hdev hi
  exact ⟨t, v, tm, c, ht, hidle, hst, hin, hbank, htm, hc, hv⟩

/-- Settles O33: the labels, and the whole command as a run without changes between its answers. -/
theorem getEpochCommand : Obligations.GetEpochCommand := by
  refine ⟨rfl, fun s hp => getEpoch_issue hp, fun s b0 b1 b2 hp hb => getEpoch_keep hp hb,
    fun s st d hp hb hst => ⟨_, Config.unspec 64 s.draws, getEpoch_failed hp hb hst,
      finish_finished_of_bank st s _ (s.draws + 1)⟩,
    fun s e hp hb he => getEpoch_end hp hb he, fun s rest hp hdev hi => ?_⟩
  obtain ⟨t, v, tm, c, ht, hidle, hst, hin, hbank, hmem, htm, hc, hv⟩ := getEpoch_run (cs := []) hp hdev hi
  exact ⟨t, v, tm, c, ht, hidle, hst, hbank, hin, fun a => by rw [hmem]; rfl, htm, hc, hv⟩

end Sys2Proof.TwoRequests

/-! Nothing hidden is carried from one command to the next (spec/10_state.md R20, R24): two runs that differ in `cur`, `lat` and `rbuf`
alone show the same. -/

namespace Sys2Proof.Hidden

open Sys2Proof.Machine Sys2Proof.Safety Sys2Proof.Encoding Sys2Proof.Port Sys2Proof.Invariant

/-- `s` with other hidden bytes. -/
def hide (c : Byte) (l : LatBytes) (b : RbufBytes) (s : State) : State := { s with cur := c, lat := l, rbuf := b }

/-- The hidden bytes that command `i` still reads when the answer it waits for arrives are those of `s`: `lat` for `RMW_CS`, and
`rbuf` for the second answer of `GET_EPOCH` (R24). -/
def SameReads (i : Instr) (l : LatBytes) (b : RbufBytes) (s : State) : Prop :=
  (i = .rmwCs → l = s.lat) ∧ (i = .getEpoch → s.phase = .wait2 → b = s.rbuf)

/-- `t` is `s` but for hidden bytes that nothing reads before it writes them. -/
inductive Alike (s t : State) : Prop where
  /-- The block is idle: no hidden byte is read. -/
  | idle (hp : s.phase = .idle) (c : Byte) (l : LatBytes) (b : RbufBytes) (ht : t = hide c l b s)
  /-- The block is busy: `cur` is read, and what its command still reads. -/
  | busy (l : LatBytes) (b : RbufBytes) (hr : ∀ i, decode s.cur = .command i → SameReads i l b s) (ht : t = hide s.cur l b s)

/-- Both stop alike, or go on in states that are alike. -/
inductive OutcomesAlike : Result → Result → Prop where
  | same (o : Result) : OutcomesAlike o o
  | next {s t : State} (h : Alike s t) : OutcomesAlike (.next s) (.next t)

/-! The operations and the hidden bytes. -/

section Hide
variable (c : Byte) (l : LatBytes) (b : RbufBytes) (s : State)

@[simp] theorem hide_phase : (hide c l b s).phase = s.phase := rfl
@[simp] theorem hide_bus : (hide c l b s).bus = s.bus := rfl
@[simp] theorem hide_inputs : (hide c l b s).inputs = s.inputs := rfl

theorem visible_hide : visible (hide c l b s) = visible s := rfl

theorem finish_hide (st : Status) : finish st (hide c l b s) = finish st s := rfl

theorem issue_hide (code : Byte) (r : Request) : issue code r (hide c l b s) = hide code l b (issue code r s) := rfl

theorem transport_hide (st : Status) (r : Request) : transport st r (hide c l b s) = hide c l b (transport st r s) := by
  unfold transport
  repeat' split
  all_goals rfl

theorem hostWrite_hide (put : Bank → Bank) : hostWrite put (hide c l b s) = hide c l b (hostWrite put s) := by
  by_cases hp : s.phase = .idle
  · rw [hostWrite_idle put hp]
    exact hostWrite_idle put hp
  · rw [hostWrite_busy put hp]
    exact hostWrite_busy put hp

theorem regValue_hide (r : BankReg) : regValue r (hide c l b s) = regValue r s := by cases r <;> rfl

theorem hostRead_hide (r : BankReg) : hostRead r (hide c l b s) = hide c l b (hostRead r s) := by
  simp only [hostRead, regValue_hide, hide_phase]
  split
  · cases regValue r s <;> rfl
  · rfl

end Hide

/-- An operation that neither reads nor writes a hidden byte or the phase keeps states alike. -/
theorem alike_map {f : State → State} {s t : State} (h : Alike s t) (hf : ∀ c l b, f (hide c l b s) = hide c l b (f s))
    (hsame : (f s).phase = s.phase ∧ (f s).cur = s.cur ∧ (f s).lat = s.lat ∧ (f s).rbuf = s.rbuf) : Alike (f s) (f t) := by
  obtain ⟨hp, hc, hl, hb⟩ := hsame
  cases h with
  | idle hidle c l b ht => exact .idle (hp.trans hidle) c l b (by rw [ht, hf])
  | busy l b hr ht =>
    refine .busy l b ?_ (by rw [ht, hf, hc])
    simpa only [SameReads, hp, hc, hl, hb] using hr

/-! The labels. -/

/-- The `ISSUE` label of a command with one request. -/
theorem alike_issue {i : Instr} (r : Request) (c : Byte) (l : LatBytes) (b : RbufBytes) (s : State) (hi : i ≠ .rmwCs) :
    Alike (issue (encode i) r s) (issue (encode i) r (hide c l b s)) := by
  refine .busy l b (fun j hj => ?_) rfl
  have hj : decode (encode i) = .command j := hj
  rw [decode_encode] at hj
  cases hj
  exact ⟨fun h => absurd h hi, fun _ h => nomatch h⟩

/-- Command `i` carries no hidden byte from one label to the next but `cur`: its `ISSUE` label runs alike whatever the hidden bytes
hold, and its answer label ends the same. -/
structure CarriesNothing (i : Instr) : Prop where
  issue (c : Byte) (l : LatBytes) (b : RbufBytes) {s : State} (hp : s.phase = .idle) :
    OutcomesAlike (exec i s) (exec i (hide c l b s))
  answer (c : Byte) (l : LatBytes) (b : RbufBytes) {s : State} {st : Status} {d : List Byte} (hp : s.phase ≠ .idle)
    (hb : s.bus = .answered st d) : exec i (hide c l b s) = exec i s

theorem pure_carriesNothing {i : Instr} {f : Byte → Byte} (hexec : ∀ s, exec i s = pureCommand f s) : CarriesNothing i where
  issue c l b s hp := by
    rw [hexec, hexec, pureCommand_idle f hp, pureCommand_idle f (s := hide c l b s) hp]
    exact .next (.idle hp c l b rfl)
  answer c l b s st d hp _ := by
    rw [hexec, hexec]
    cases h : s.phase with
    | idle => exact absurd h hp
    | _ => simp only [pureCommand, hide_phase, h]

theorem write_carriesNothing {i : Instr} {start : Byte} {bytes : Bank → List Byte} (hi : i ≠ .rmwCs)
    (hexec : ∀ s, exec i s = writeCommand (encode i) start (bytes s.bank) s) : CarriesNothing i where
  issue c l b s hp := by
    rw [hexec, hexec, writeCommand_idle _ _ _ hp, writeCommand_idle _ _ _ (s := hide c l b s) hp]
    exact .next (alike_issue _ c l b s hi)
  answer c l b s st d hp hb := by
    rw [hexec, hexec]
    cases h : s.phase with
    | idle => exact absurd h hp
    | wait1 =>
      rw [writeCommand_answered _ _ _ h hb, writeCommand_answered _ _ _ (s := hide c l b s) h hb]
      rfl
    | wait2 => simp only [writeCommand, hide_phase, h]

theorem read_carriesNothing {i : Instr} {start : Byte} {n : Nat} {store : List Byte → State → Option State} {lose : State → State}
    (hi : i ≠ .rmwCs) (hexec : ∀ s, exec i s = readCommand (encode i) start n store lose s)
    (hstore : ∀ d c l b s, store d (hide c l b s) = (store d s).map (hide c l b))
    (hlose : ∀ c l b s, lose (hide c l b s) = hide c l b (lose s)) : CarriesNothing i where
  issue c l b s hp := by
    rw [hexec, hexec, readCommand_idle _ _ _ _ _ hp, readCommand_idle _ _ _ _ _ (s := hide c l b s) hp]
    exact .next (alike_issue _ c l b s hi)
  answer c l b s st d hp hb := by
    rw [hexec, hexec]
    have hb' : (hide c l b s).bus = .answered st d := hb
    cases h : s.phase with
    | idle => exact absurd h hp
    | wait1 =>
      simp only [readCommand, hide_phase, h, onAnswer_answered hb, onAnswer_answered hb', hstore, hlose, finish_hide]
      cases store d s <;> rfl
    | wait2 => simp only [readCommand, hide_phase, h]

/-- Only the commands of two requests carry hidden bytes. -/
theorem carriesNothing {i : Instr} (hrmw : i ≠ .rmwCs) (hepoch : i ≠ .getEpoch) : CarriesNothing i := by
  cases i with
  | tobcd => exact pure_carriesNothing fun _ => rfl
  | frombcd => exact pure_carriesNothing fun _ => rfl
  | setTime => exact write_carriesNothing (bytes := fun b => encTime b.time) hrmw fun _ => rfl
  | setCal => exact write_carriesNothing (bytes := fun b => encCal b.cal) hrmw fun _ => rfl
  | setAlarm1 => exact write_carriesNothing (bytes := fun b => encAlarm1 b.alarm) hrmw fun _ => rfl
  | setAlarm2 => exact write_carriesNothing (bytes := fun b => encAlarm2 b.alarm) hrmw fun _ => rfl
  | setCs => exact write_carriesNothing (bytes := fun b => encCs b.cs) hrmw fun _ => rfl
  | getTime =>
    exact read_carriesNothing hrmw (fun _ => rfl) (fun d _ _ _ _ => by cases decTime d <;> rfl) fun _ _ _ _ => rfl
  | getCal =>
    exact read_carriesNothing hrmw (fun _ => rfl) (fun d _ _ _ _ => by cases decCal d <;> rfl) fun _ _ _ _ => rfl
  | getAlarm1 =>
    exact read_carriesNothing hrmw (fun _ => rfl) (fun _ _ _ _ _ => by rw [Option.map_map]; rfl) fun _ _ _ _ => rfl
  | getAlarm2 =>
    exact read_carriesNothing hrmw (fun _ => rfl) (fun _ _ _ _ _ => by rw [Option.map_map]; rfl) fun _ _ _ _ => rfl
  | getCs =>
    exact read_carriesNothing hrmw (fun _ => rfl) (fun d _ _ _ _ => by cases decCs d <;> rfl) fun _ _ _ _ => rfl
  | getTemp =>
    exact read_carriesNothing hrmw (fun _ => rfl) (fun d _ _ _ _ => by cases temp16 d <;> rfl) fun _ _ _ _ => rfl
  | rmwCs => exact absurd rfl hrmw
  | getEpoch => exact absurd rfl hepoch

/-- The `ISSUE` label reads no hidden byte. -/
theorem exec_alike_of_idle (i : Instr) {s : State} (c : Byte) (l : LatBytes) (b : RbufBytes) (hp : s.phase = .idle) :
    OutcomesAlike (exec i s) (exec i (hide c l b s)) := by
  by_cases hrmw : i = .rmwCs
  · subst hrmw
    simp only [exec, execRmwCs, hide_phase, hp]
    exact .next (.busy (sampleCs s).lat b (fun _ _ => ⟨fun _ => rfl, fun _ h => nomatch h⟩) rfl)
  by_cases hepoch : i = .getEpoch
  · subst hepoch
    simp only [exec, execGetEpoch, hide_phase, hp]
    exact .next (alike_issue (i := .getEpoch) _ c l b s (by decide))
  exact (carriesNothing hrmw hepoch).issue c l b hp

/-- `RMW_CS` carries `lat` to its first answer, and nothing to its second. -/
theorem rmwCs_alike {s : State} {st : Status} {d : List Byte} (b : RbufBytes) (hp : s.phase ≠ .idle)
    (hb : s.bus = .answered st d) (hc : decode s.cur = .command .rmwCs) :
    OutcomesAlike (execRmwCs s) (execRmwCs (hide s.cur s.lat b s)) := by
  have hb' : (hide s.cur s.lat b s).bus = .answered st d := hb
  cases h : s.phase with
  | idle => exact absurd h hp
  | wait1 =>
    simp only [execRmwCs, hide_phase, h, onAnswer_answered hb, onAnswer_answered hb', finish_hide]
    split
    · cases decCs d with
      | none => exact .same _
      | some p =>
        refine .next (.busy s.lat b (fun j hj => ?_) rfl)
        cases Decoded.command.inj (hc.symm.trans hj)
        exact ⟨fun _ => rfl, fun he => nomatch he⟩
    · exact .same _
  | wait2 =>
    simp only [execRmwCs, hide_phase, h, onAnswer_answered hb, onAnswer_answered hb', finish_hide]
    exact .same _

/-- What `GET_EPOCH` keeps of its first answer is fixed by the answer's bytes alone. -/
theorem keepTimeBlock_cases (d : List Byte) :
    (∃ q, ∀ s, keepTimeBlock d s = some { s with rbuf := q }) ∨ ∀ s, keepTimeBlock d s = none := by
  by_cases h : ∃ b0 b1 b2, d = [b0, b1, b2]
  · obtain ⟨b0, b1, b2, rfl⟩ := h
    exact .inl ⟨{ b0 := b0, b1 := b1, b2 := b2 }, fun _ => rfl⟩
  · refine .inr fun s => ?_
    unfold keepTimeBlock
    split
    · exact absurd ⟨_, _, _, rfl⟩ h
    · rfl

/-- What `GET_EPOCH` makes of its second answer reads `rbuf` and no other hidden byte. -/
theorem deriveEpoch_hide (e : List Byte) (c : Byte) (l : LatBytes) (s : State) :
    deriveEpoch e (hide c l s.rbuf s) = (deriveEpoch e s).map (hide c l s.rbuf) := by
  simp only [deriveEpoch, hide]
  split <;> rfl

/-- `GET_EPOCH` carries nothing to its first answer, and `rbuf` to its second. -/
theorem getEpoch_alike {s : State} {st : Status} {d : List Byte} (l : LatBytes) {b : RbufBytes} (hp : s.phase ≠ .idle)
    (hb : s.bus = .answered st d) (hc : decode s.cur = .command .getEpoch) (hbuf : s.phase = .wait2 → b = s.rbuf) :
    OutcomesAlike (execGetEpoch s) (execGetEpoch (hide s.cur l b s)) := by
  have hb' : (hide s.cur l b s).bus = .answered st d := hb
  cases h : s.phase with
  | idle => exact absurd h hp
  | wait1 =>
    simp only [execGetEpoch, hide_phase, h, onAnswer_answered hb, onAnswer_answered hb']
    split
    · rcases keepTimeBlock_cases d with ⟨q, hq⟩ | hnone
      · simp only [hq]
        refine .next (.busy l q (fun j hj => ?_) rfl)
        cases Decoded.command.inj (hc.symm.trans hj)
        exact ⟨fun he => (nomatch he), fun _ _ => rfl⟩
      · simp only [hnone]
        exact .same _
    · exact .same _
  | wait2 =>
    obtain rfl := hbuf h
    simp only [execGetEpoch, hide_phase, h, onAnswer_answered hb, onAnswer_answered hb', deriveEpoch_hide]
    split
    · cases deriveEpoch d s <;> exact .same _
    · exact .same _

/-- A label that runs on an answer reads of the hidden bytes at most those that `SameReads` names. -/
theorem exec_alike_of_answer {i : Instr} {s : State} {st : Status} {d : List Byte} {l : LatBytes} {b : RbufBytes}
    (hp : s.phase ≠ .idle) (hb : s.bus = .answered st d) (hc : decode s.cur = .command i) (hr : SameReads i l b s) :
    OutcomesAlike (exec i s) (exec i (hide s.cur l b s)) := by
  obtain ⟨hlat, hbuf⟩ := hr
  by_cases hrmw : i = .rmwCs
  · obtain rfl := hlat hrmw
    subst hrmw
    exact rmwCs_alike b hp hb hc
  by_cases hepoch : i = .getEpoch
  · subst hepoch
    exact getEpoch_alike l hp hb hc (hbuf rfl)
  rw [(carriesNothing hrmw hepoch).answer s.cur l b hp hb]
  exact .same _

/-! Steps and runs. -/

/-- Alike states differ in hidden bytes at most. -/
theorem Alike.eq_hide {s t : State} (h : Alike s t) : ∃ c l b, t = hide c l b s := by
  cases h with
  | idle _ c l b ht => exact ⟨c, l, b, ht⟩
  | busy l b _ ht => exact ⟨s.cur, l, b, ht⟩

/-- A byte written to `CMD` has the same effect on alike states. -/
theorem hostCommand_alike (x : Byte) {s t : State} (h : Alike s t) : OutcomesAlike (hostCommand x s) (hostCommand x t) := by
  obtain ⟨c, l, b, ht⟩ := h.eq_hide
  by_cases hp : s.phase = .idle
  · subst ht
    cases hx : decode x with
    | command i =>
      obtain rfl := decode_command_iff.1 hx
      rw [hostCommand_encode i hp, hostCommand_encode i (s := hide c l b s) hp]
      exact exec_alike_of_idle i c l b hp
    | reserved w =>
      rw [hostCommand_reserved hp hx, hostCommand_reserved (s := hide c l b s) hp hx]
      exact .next (.idle hp c l b rfl)
  · have hp' : t.phase ≠ .idle := by rwa [ht, hide_phase]
    rw [hostCommand_busy x hp, hostCommand_busy x hp']
    exact .next h

/-- The label of the command in `cur` runs alike on an answer. -/
theorem resume_alike {s t : State} {st : Status} {d : List Byte} (hp : s.phase ≠ .idle) (hb : s.bus = .answered st d)
    (h : Alike s t) : OutcomesAlike (resume s) (resume t) := by
  cases h with
  | idle hidle => exact absurd hidle hp
  | busy l b hr ht =>
    subst ht
    have hcur : (hide s.cur l b s).cur = s.cur := rfl
    unfold resume
    rw [hcur]
    cases hc : decode s.cur with
    | command i => exact exec_alike_of_answer hp hb hc (hr i hc)
    | reserved w => exact .same _

/-- An answer has the same effect on alike states. -/
theorem takeAnswer_alike (st : Status) {s t : State} (hcoh : coherent s = true) (h : Alike s t) :
    OutcomesAlike (takeAnswer st s) (takeAnswer st t) := by
  obtain ⟨c, l, b, ht⟩ := h.eq_hide
  have hbus : t.bus = s.bus := by rw [ht, hide_bus]
  cases hb : s.bus with
  | pending r =>
    obtain ⟨d, hans, -⟩ := transport_answers st r s
    have hp : (transport st r s).phase ≠ .idle := by simpa using busy_of_pending hcoh hb
    have hnext : Alike (transport st r s) (transport st r t) :=
      alike_map h (fun c l b => transport_hide c l b s st r) (by simp)
    simpa only [takeAnswer, hbus, hb] using resume_alike hp hans hnext
  | _ =>
    rw [takeAnswer_unsolicited st (by simp [hb]), takeAnswer_unsolicited st (by simp [hbus, hb])]
    exact .same _

/-- One step from alike states, the first of them coherent, stops alike or leads to alike states. -/
theorem step_alike {s t : State} (hcoh : coherent s = true) (h : Alike s t) : OutcomesAlike (step s) (step t) := by
  have hinputs : t.inputs = s.inputs := by
    obtain ⟨c, l, b, rfl⟩ := h.eq_hide
    rfl
  cases hi : s.inputs with
  | nil =>
    rw [step_nil hi, step_nil (hinputs.trans hi)]
    exact .next h
  | cons x rest =>
    rw [step_cons hi, step_cons (hinputs.trans hi)]
    have htail : Alike { s with inputs := rest } { t with inputs := rest } :=
      alike_map (f := fun s => { s with inputs := rest }) h (fun _ _ _ => rfl) ⟨rfl, rfl, rfl, rfl⟩
    cases x with
    | cmd c => exact hostCommand_alike c htail
    | wrByte r v =>
      exact .next (alike_map htail (fun c l b => hostWrite_hide c l b _ (putByte r v)) (by simp))
    | wrBit r v =>
      exact .next (alike_map htail (fun c l b => hostWrite_hide c l b _ (putBit r v)) (by simp))
    | rd r => exact .next (alike_map htail (fun c l b => hostRead_hide c l b _ r) (by simp))
    | regChange a v => exact .next (alike_map htail (fun _ _ _ => rfl) ⟨rfl, rfl, rfl, rfl⟩)
    | answer st => exact takeAnswer_alike st (coherent_of_same hcoh rfl rfl rfl rfl) htail

/-- Two runs from alike states, the first of them coherent, show the same. -/
theorem steps_alike (k : Nat) {s t : State} (hcoh : coherent s = true) (h : Alike s t) :
    (nextOf (steps k t)).map visible = (nextOf (steps k s)).map visible := by
  induction k generalizing s t with
  | zero =>
    obtain ⟨c, l, b, rfl⟩ := h.eq_hide
    exact congrArg some (visible_hide c l b s)
  | succ k ih =>
    have hstep := step_alike hcoh h
    generalize hs : step s = o at hstep
    generalize ht : step t = o' at hstep
    cases hstep with
    | next hu =>
      rw [steps_next hs, steps_next ht]
      exact ih (step_coherent hcoh hs) hu
    | same o =>
      cases o with
      | next u => rw [steps_next hs, steps_next ht]
      | fault f => rw [steps_fault hs, steps_fault ht]
      | refused r => rw [steps_refused hs, steps_refused ht]

/-- Settles O54: the runs stay alike, and alike states show the same. -/
theorem hiddenStateCarriesNothing : Obligations.HiddenStateCarriesNothing := by
  intro k s c l b hp hb
  exact steps_alike k (coherent_iff.2 (.inl ⟨hp, hb⟩)) (.idle hp c l b rfl)

end Sys2Proof.Hidden
